-- ==== Sys2Proof/Word.lean ====
section
/-! DEFINITION. The word types of the engine: every transaction moves one byte (20_memory.md R46, R48); two wider
quantities are assembled from bytes (R57 c, d). -/

namespace Sys2Proof

/-- `u8`: a register, a port number, an index, an opcode, an operand (00_scope.md section 6.1). -/
abbrev Byte := BitVec 8

/-- `u16`: the lookup address of the ACPI command record (42_acpi.md R103). -/
abbrev HalfWord := BitVec 16

/-- `u32`: the assembled flash address (10_state.md R24). -/
abbrev LongWord := BitVec 32

end Sys2Proof
end

