-- ==== Sys2Proof/Machine/Flags.lean ====
section
/-! DEFINITION. The two flags of the device (10_state.md section 1, item B3; 30_encoding.md R70): `OBF`, bit 0 of
`command_register`, and `WEL`, bit 1 of `spi_status`. -/

namespace Sys2Proof.Machine

/-- `command_register[0]`, `OBF`: a byte is staged (10_state.md R11). -/
def obf (commandRegister : Byte) : Bool := commandRegister.getLsbD 0

/-- `command_register[0] <- 1` (43_ec_dispatch.md R116); bits 7:1 are not written (10_state.md R11). -/
def setObf (commandRegister : Byte) : Byte := commandRegister ||| 0x01

/-- `command_register[0] <- 0` (43_ec_dispatch.md R117); bits 7:1 are not written (10_state.md R11). -/
def clearObf (commandRegister : Byte) : Byte := commandRegister &&& 0xFE

/-- `spi_status[1]`, `WEL`: the write-enable latch (10_state.md R20). -/
def wel (spiStatus : Byte) : Bool := spiStatus.getLsbD 1

/-- `spi_status | 0x02` (45_spi_flash.md R164; 20_memory.md R57 e). -/
def setWel (spiStatus : Byte) : Byte := spiStatus ||| 0x02

/-- `spi_status & 0xFD` (45_spi_flash.md R162; 20_memory.md R57 e). -/
def clearWel (spiStatus : Byte) : Byte := spiStatus &&& 0xFD

end Sys2Proof.Machine
end

