-- ==== Sys2Proof/Config.lean ====
section
/-! DEFINITION. The parameters of 00_scope.md section 4: what one device has fixed and the source gives no number for.
A configuration is a field of the machine's state that no step writes (log 2), so that a statement about every state is
a statement about every configuration. -/

namespace Sys2Proof

/-- The bytes an identification string may hold: 0 to 15, none of them `0x00` (00_scope.md R2; decision D8), so that they and
their terminator fit the 16-byte buffer (R3). -/
def IdString.wf (chars : List Byte) : Bool := decide (chars.length ≤ 15) && chars.all (fun b => decide (b ≠ 0x00))

/-- An identification string, without its terminator. Its bound is "enforced by the container type rather than by
convention" (00_scope.md R3): no longer string can be built. -/
structure IdString where
  chars : List Byte
  bounded : IdString.wf chars = true
  deriving DecidableEq, Repr

/-- The configuration record (00_scope.md section 4; 92_eei_decisions.md D1, D6 to D10, D18). -/
structure Config where
  /-- `PORT_SIO_ADDR`. -/
  portSioAddr : Byte
  /-- `PORT_SIO_DATA`. -/
  portSioData : Byte
  /-- `PORT_EC_DATA`. -/
  portEcData : Byte
  /-- `PORT_EC_CMD`. -/
  portEcCmd : Byte
  /-- `PROJECT_STRING`, without its terminator. -/
  projectString : IdString
  /-- `VERSION_STRING`, without its terminator. -/
  versionString : IdString
  /-- `JEDEC_ID`, four bytes. -/
  jedecId : Vector Byte 4
  /-- `ACPI_INIT_10`, the reset value of `acpi_space[0x10]`. -/
  acpiInit10 : Byte
  /-- `ACPI_INIT_E5`, the reset value of `acpi_space[0xE5]`. -/
  acpiInitE5 : Byte
  /-- `SIO_ID_INDEX_A`. -/
  sioIdIndexA : Byte
  /-- `SIO_ID_INDEX_B`. -/
  sioIdIndexB : Byte
  /-- `SIO_ID_VALUE_A`. -/
  sioIdValueA : Byte
  /-- `SIO_ID_VALUE_B`. -/
  sioIdValueB : Byte
  /-- `SPI_STATUS_RESET`, the reset value of `spi_status`. -/
  spiStatusReset : Byte
  /-- `BYPASS_INIT`: the connect and `Init` handshake succeeded at reset (40_bypass.md R84). -/
  bypassInit : Bool
  deriving DecidableEq, Repr

/-- The constraints on the parameters: R1 (the four ports are pairwise distinct) and the table of 00_scope.md section 4
(the two SuperIO indices are distinct). R2, the bound on the two strings, stands in their type (`IdString`). -/
abbrev Config.WellFormed (c : Config) : Prop :=
  [c.portSioAddr, c.portSioData, c.portEcData, c.portEcCmd].Nodup ∧
  c.sioIdIndexA ≠ c.sioIdIndexB

/-- `CFG_REF`, the reference configuration of 00_scope.md section 4: the spec's own choice, used by its opcode table and
test vectors. DESIGN CHOICE, unsafe (log 2): only `State.reset` rests on it. -/
def Config.reference : Config where
  portSioAddr := 0x2E
  portSioData := 0x2F
  portEcData := 0x62
  portEcCmd := 0x66
  projectString := { chars := [0x4D, 0x4F, 0x44, 0x45, 0x4C], bounded := rfl }
  versionString := { chars := [0x31, 0x2E, 0x30], bounded := rfl }
  jedecId := #v[0xA1, 0xB2, 0xC3, 0xD4]
  acpiInit10 := 0x05
  acpiInitE5 := 0x80
  sioIdIndexA := 0x20
  sioIdIndexB := 0x21
  sioIdValueA := 0x85
  sioIdValueB := 0x87
  spiStatusReset := 0x00
  bypassInit := false

end Sys2Proof
end

