-- ==== Sys2Proof/Machine/Operands.lean ====
section
/-! DEFINITION. Operand assembly (30_encoding.md R71): operands are whole bytes; two wider quantities are composed of
them, and a stored string is its characters and a terminator. -/

namespace Sys2Proof.Machine

/-- The lookup address of the command record: `(zext_16(d1) << 8) | zext_16(d2)`, big-endian (R71 c; 20_memory.md R46 a,
R57 c). -/
def addr16 (d1 d2 : Byte) : HalfWord := (d1.setWidth 16 <<< 8) ||| d2.setWidth 16

/-- `lookup_b1(addr16)` (42_acpi.md R104): one recognised address. -/
def lookupB1 (a : HalfWord) : Byte := if a = 0x2002 then 0x06 else 0x00

/-- `assemble_address()` (45_spi_flash.md R174): slot 0 is most significant, slot 3, the first byte written, least
(decision D15, log 18). -/
def assembleAddress (b : Vector Byte 4) : LongWord :=
  (b[0].setWidth 32 <<< 24) ||| (b[1].setWidth 32 <<< 16) ||| (b[2].setWidth 32 <<< 8) ||| b[3].setWidth 32

/-- A stored string: the bytes of the parameter followed by one `0x00` (00_scope.md R2; 10_state.md R16, R17). -/
def storedString (s : IdString) : List Byte := s.chars ++ [0x00]

/-- `project_string[cursor]`, `version_string[cursor]` (43_ec_dispatch.md R118, R119). A cursor is never past the
terminator (10_state.md R27); past it the model reads a terminator (log 29). -/
def charAt (s : IdString) (cursor : Nat) : Byte := (storedString s).getD cursor 0x00

/-- The byte that ends a string readout, `$` (43_ec_dispatch.md R118, R119; decision D26, log 22). -/
def terminator : Byte := 0x24

/-- The filler byte a high-speed read returns (44_spi_control.md R144). -/
def filler : Byte := 0xFF

/-- The response of the vendor query `0xDC` (43_ec_dispatch.md R126). -/
def vendorResponse : Byte := 0x33

/-- The index whose write triggers the record interpreter (42_acpi.md R102). -/
def recordIndex : Byte := 0xF8

end Sys2Proof.Machine
end

