-- ==== Sys2Proof/Machine/Memory.lean ====
section
/-! DEFINITION. A byte-addressed space of 256 bytes (20_memory.md R41, R42): a list of (address, byte) pairs in one
canonical form, read and written a byte at a time. Every index is a byte, so no access is out of range (R57 g). The size is
"enforced by the container type rather than by convention" (00_scope.md R3): the list stands in a structure that holds the
canonical form with it, so no space of another size can be built. -/

namespace Sys2Proof.Machine

/-- What an unlisted address reads as: `0x00`, the reset content of every byte of `acpi_space` and `superio_registers`
that is not a preset (10_state.md R14, R19; decisions D6, D7; log 13). -/
def Memory.unlisted : Byte := 0x00

/-- The byte at an address of a list of cells. -/
def Memory.readAt : List Host.Cell → Nat → Byte
  | [], _ => Memory.unlisted
  | (k, v) :: m, a => if k = a then v else Memory.readAt m a

/-- The entry that makes an address read as a byte: none for the byte an unlisted address reads as. -/
def Memory.entry (a : Nat) (v : Byte) : List Host.Cell := if v = Memory.unlisted then [] else [(a, v)]

/-- Store a byte at an address of a list of cells. -/
def Memory.writeAt : List Host.Cell → Nat → Byte → List Host.Cell
  | [], a, v => Memory.entry a v
  | (k, w) :: m, a, v =>
    if a < k then Memory.entry a v ++ (k, w) :: m
    else if a = k then Memory.entry a v ++ m
    else (k, w) :: Memory.writeAt m a v

/-- The canonical form of a space of 256 bytes: addresses strictly rising and below 256, and no entry equal to what an
unlisted address reads as. Spaces that read alike are equal lists. -/
def Memory.wf (m : List Host.Cell) : Bool :=
  decide (m.Pairwise (fun c d => c.1 < d.1)) && m.all (fun c => decide (c.1 < 256) && decide (c.2 ≠ Memory.unlisted))

theorem Memory.wf_iff {m : List Host.Cell} :
    Memory.wf m = true ↔ m.Pairwise (fun c d => c.1 < d.1) ∧ ∀ c ∈ m, c.1 < 256 ∧ c.2 ≠ Memory.unlisted := by
  simp only [Memory.wf, Bool.and_eq_true, decide_eq_true_eq, List.all_eq_true]

/-! A store keeps the canonical form. -/

theorem Memory.mem_entry {a : Nat} {v : Byte} {c : Host.Cell} (h : c ∈ Memory.entry a v) :
    c = (a, v) ∧ v ≠ Memory.unlisted := by
  unfold Memory.entry at h
  split_ifs at h with hv
  · simp at h
  · exact ⟨by simpa using h, hv⟩

theorem Memory.mem_writeAt {m : List Host.Cell} {a : Nat} {v : Byte} {c : Host.Cell} (h : c ∈ Memory.writeAt m a v) :
    c ∈ m ∨ (c = (a, v) ∧ v ≠ Memory.unlisted) := by
  induction m with
  | nil => exact .inr (Memory.mem_entry h)
  | cons d m ih =>
    obtain ⟨k, w⟩ := d
    simp only [Memory.writeAt] at h
    split_ifs at h
    · rcases List.mem_append.mp h with h | h
      · exact .inr (Memory.mem_entry h)
      · exact .inl h
    · rcases List.mem_append.mp h with h | h
      · exact .inr (Memory.mem_entry h)
      · exact .inl (List.mem_cons_of_mem _ h)
    · rcases List.mem_cons.mp h with rfl | h
      · exact .inl (by simp)
      · rcases ih h with h | h
        · exact .inl (List.mem_cons_of_mem _ h)
        · exact .inr h

theorem Memory.pairwise_entry_append {a : Nat} {v : Byte} {m : List Host.Cell} (h : m.Pairwise (fun c d => c.1 < d.1))
    (ha : ∀ c ∈ m, a < c.1) : (Memory.entry a v ++ m).Pairwise (fun c d => c.1 < d.1) := by
  refine List.pairwise_append.mpr ⟨?_, h, ?_⟩
  · unfold Memory.entry; split_ifs <;> simp
  · intro c hc d hd
    rw [(Memory.mem_entry hc).1]
    exact ha d hd

theorem Memory.pairwise_writeAt {m : List Host.Cell} (h : m.Pairwise (fun c d => c.1 < d.1)) (a : Nat) (v : Byte) :
    (Memory.writeAt m a v).Pairwise (fun c d => c.1 < d.1) := by
  induction m with
  | nil => simpa [Memory.writeAt] using Memory.pairwise_entry_append (v := v) (m := []) .nil (by simp)
  | cons c m ih =>
    obtain ⟨k, w⟩ := c
    have h' := List.pairwise_cons.mp h
    simp only [Memory.writeAt]
    split_ifs with h1 h2
    · refine Memory.pairwise_entry_append h fun d hd => ?_
      rcases List.mem_cons.mp hd with rfl | hd
      · exact h1
      · exact lt_trans h1 (h'.1 d hd)
    · subst h2
      exact Memory.pairwise_entry_append h'.2 fun d hd => h'.1 d hd
    · refine List.pairwise_cons.mpr ⟨fun d hd => ?_, ih h'.2⟩
      rcases Memory.mem_writeAt hd with hd | ⟨rfl, -⟩
      · exact h'.1 d hd
      · show k < a
        omega

/-- A store inside the space keeps the canonical form. -/
theorem Memory.wf_writeAt {m : List Host.Cell} (h : Memory.wf m = true) {a : Nat} (ha : a < 256) (v : Byte) :
    Memory.wf (Memory.writeAt m a v) = true := by
  obtain ⟨h1, h2⟩ := Memory.wf_iff.mp h
  refine Memory.wf_iff.mpr ⟨Memory.pairwise_writeAt h1 _ _, fun c hc => ?_⟩
  rcases Memory.mem_writeAt hc with hc | ⟨rfl, hv⟩
  · exact h2 c hc
  · exact ⟨ha, hv⟩

/-! The space. -/

/-- A space of 256 bytes (00_scope.md R3): the bytes that differ from what an unlisted address reads as, in canonical
form. -/
structure Memory where
  cells : List Host.Cell
  canonical : Memory.wf cells = true
  deriving DecidableEq, Repr

/-- The space with nothing listed. -/
def Memory.empty : Memory := { cells := [], canonical := rfl }

/-- `arr[i]` of a 256-byte space (00_scope.md section 6.2). -/
def Memory.read (m : Memory) (i : Byte) : Byte := Memory.readAt m.cells i.toNat

/-- `arr[i] <- v` of a 256-byte space (00_scope.md section 6.2). -/
def Memory.write (m : Memory) (i v : Byte) : Memory where
  cells := Memory.writeAt m.cells i.toNat v
  canonical := Memory.wf_writeAt m.canonical i.isLt v

end Sys2Proof.Machine
end

