-- ==== Sys2Proof/Machine/Protocol.lean ====
section
/-! DEFINITION. The vocabulary of the port protocol: the eighteen protocol states, the transactions of the host, the
requests to the bypass peer and its answers, and the context a byte is decoded in. -/

namespace Sys2Proof.Machine

/-- `protocol_state` (10_state.md R12): one of eighteen values, with no numbering and no order (D25). -/
inductive ProtocolState where
  | idle | getAcpi | setAcpi | setAcpiIndex | getProject | getVersion
  | spiFollow | spiCommand | spiReadStatus | spiReadJedec | spiWriteStatus | spiWriteStatusData
  | spiSectorErase | spiSectorEraseAddress | spiHsRead | spiHsReadAddress | spiHsReadData | spiAaiProgram
  deriving DecidableEq, Repr

/-- `is_spi(S)` (10_state.md R12): true for exactly the twelve `Spi*` states. They are the "follow-class" states (R63,
R140; decision D11, log 24). -/
def ProtocolState.isSpi : ProtocolState → Bool
  | .idle | .getAcpi | .setAcpi | .setAcpiIndex | .getProject | .getVersion => false
  | .spiFollow | .spiCommand | .spiReadStatus | .spiReadJedec | .spiWriteStatus | .spiWriteStatusData => true
  | .spiSectorErase | .spiSectorEraseAddress | .spiHsRead | .spiHsReadAddress | .spiHsReadData | .spiAaiProgram => true

/-- A transaction (30_encoding.md R60): the triple `(dir, port, value)`, `value` present only for a write. -/
inductive Transaction where
  | read (port : Byte)
  | write (port value : Byte)
  deriving DecidableEq, Repr

/-- What an embedding host may ask for: an access of some number of bytes. Only one byte is a transaction (20_memory.md
R48). -/
inductive HostAccess where
  | read (port : Byte) (width : Nat)
  | write (port : Byte) (data : List Byte)
  deriving DecidableEq, Repr

/-- The transaction an access is; none where it is not exactly one byte wide (20_memory.md R48, D20; log 9). -/
def HostAccess.transaction? : HostAccess → Option Transaction
  | .read p w => if w = 1 then some (.read p) else none
  | .write p [v] => some (.write p v)
  | .write _ [] => none
  | .write _ (_ :: _ :: _) => none

/-- The one-byte access that issues a transaction. -/
def Transaction.access : Transaction → HostAccess
  | .read p => .read p 1
  | .write p v => .write p [v]

/-- A request on the bypass wire (30_encoding.md R69): three bytes, in this order. -/
structure PeerRequest where
  kind : Byte
  address : Byte
  value : Byte
  deriving DecidableEq, Repr

/-- The bytes of a request as they travel (30_encoding.md R69). -/
def PeerRequest.bytes (r : PeerRequest) : List Byte := [r.kind, r.address, r.value]

/-- The `Init` request, `00 00 00` (R69; the two operand bytes are decision D18, log 25). -/
def PeerRequest.init : PeerRequest := { kind := 0x00, address := 0x00, value := 0x00 }

/-- The request that offers a transaction to the peer: kind 1 for a read, 2 for a write (30_encoding.md R69). The value
byte of a `Read` request is `0x00` (decision D18, log 25). -/
def Transaction.request : Transaction → PeerRequest
  | .read p => { kind := 0x01, address := p, value := 0x00 }
  | .write p v => { kind := 0x02, address := p, value := v }

/-- What the peer does with one request (40_bypass.md R80): an arbitrary reply byte, or a transport failure. That it
never answers (R86) is the end of the list of answers. -/
inductive PeerAnswer where
  | reply (value : Byte)
  | failure
  deriving DecidableEq, Repr

/-- What selects a decoder (30_encoding.md R61 to R64): whether the bypass is offered the transaction first, the port
numbers, and the protocol state before the transaction. -/
structure DecodeContext where
  cfg : Config
  bypassActive : Bool
  protocolState : ProtocolState
  deriving DecidableEq, Repr

end Sys2Proof.Machine
end

