-- ==== Sys2Proof/Machine/State.lean ====
section
/-! DEFINITION. The machine's state as plain data: the device's own state, one field for each of 10_state.md R11 to R26;
the configuration it was built with (log 2); and the wires to the host and to the bypass peer (log 1). -/

namespace Sys2Proof.Machine

/-- The state of the device: "the sole mutable aggregate" (10_state.md R10), the elements of R11 to R26 and nothing
else. -/
structure Device where
  /-- `command_register` (R11): bit 0 is `OBF`, bits 7:1 are never written and read as zero. -/
  commandRegister : Byte
  /-- `protocol_state` (R12). -/
  protocolState : ProtocolState
  /-- `data_register` (R13): the staged response byte. -/
  dataRegister : Byte
  /-- `acpi_space` (R14). -/
  acpiSpace : Memory
  /-- `acpi_index` (R15): the captured index, a hidden register. -/
  acpiIndex : Byte
  /-- `project_cursor` (R16). -/
  projectCursor : Nat
  /-- `version_cursor` (R17). -/
  versionCursor : Nat
  /-- `superio_address` (R18): the latched selector. -/
  superioAddress : Byte
  /-- `superio_registers` (R19). -/
  superioRegisters : Memory
  /-- `spi_status` (R20): bit 1 is `WEL`, the other seven bits are plain storage. -/
  spiStatus : Byte
  /-- `spi_address_bytes` (R21), indices 0 to 3. -/
  spiAddressBytes : Vector Byte 4
  /-- `spi_address_remaining` (R22): `0..3`, the slot the next address byte fills. -/
  spiAddressRemaining : Fin 4
  /-- `spi_address_complete` (R23). -/
  spiAddressComplete : Bool
  /-- `spi_address` (R24): a latch that nothing reads. -/
  spiAddress : LongWord
  /-- `spi_jedec_cursor` (R25): `0..4`, 4 means none remain. -/
  spiJedecCursor : Nat
  /-- `bypass_active` (R26). -/
  bypassActive : Bool
  deriving DecidableEq, Repr

/-- The wires of the device. The MODEL's own fields, no state of the device (R10): what the host has asked and been
given, what the peer is asked and will answer. -/
structure Bus where
  /-- The construction handshake (40_bypass.md R84) has run; the first transaction comes after it (R210; log 5). -/
  started : Bool
  /-- The accesses the host issues, oldest first (20_memory.md R53; log 1). -/
  pending : List HostAccess
  /-- The byte the last completed transaction returned; none after a write (30_encoding.md R60; log 7). -/
  result : Option Byte
  /-- The peer's answers, oldest first, one for each request (40_bypass.md R80). At its end the peer never answers
  (R86; log 3). -/
  peerAnswers : List PeerAnswer
  /-- The requests sent on the bypass wire, oldest first (30_encoding.md R69; log 6). -/
  wire : List PeerRequest
  deriving DecidableEq, Repr

/-- The state of the machine. -/
structure State where
  /-- The configuration: parameters and read-only contents, written by no step (log 2). -/
  cfg : Config
  /-- The device. -/
  dev : Device
  /-- The wires. -/
  bus : Bus
  deriving DecidableEq, Repr

/-- Why the machine stops. The device itself has no exception of any kind (60_exceptions.md R190, R197). -/
inductive Fault where
  /-- Raised by `BYP_READ` and `BYP_WRITE` when the bypass is active and no answer of the peer is left: "a hung peer
  stalls the calling transaction indefinitely", the transaction never completes and none follows (40_bypass.md R86,
  `stuck` in 93_implementation_defined.md U6). Safe: nothing is said of a run after it (log 3). -/
  | peerNeverAnswers
  deriving DecidableEq, Repr

/-- Why a step has no meaning. -/
inductive Refusal where
  /-- An instruction of the opcode table that the dispatcher gives no meaning yet. Raised by no arm of this model. Safe. -/
  | notModelled (mnemonic : String)
  /-- Raised by the fetch for a host access that is not one byte wide: "refused at the boundary" (20_memory.md R48, D20;
  93_implementation_defined.md U10). Safe: the device never sees the access (log 9). -/
  | accessNotOneByte
  deriving DecidableEq, Repr

/-- How a meaning ends. -/
abbrev Result := Host.Outcome State Fault Refusal

/-- The device right after reset with a configuration (70_reset_and_hazards.md R211, R213; 10_state.md section 10). The
values the source gives no number for are the spec's own decisions (log 13, 14). -/
def Device.reset (c : Config) : Device where
  commandRegister := 0x00
  protocolState := .idle
  dataRegister := 0x00
  acpiSpace := (Memory.empty.write 0x10 c.acpiInit10).write 0xE5 c.acpiInitE5
  acpiIndex := 0x00
  projectCursor := 0
  versionCursor := 0
  superioAddress := 0x00
  superioRegisters := (Memory.empty.write c.sioIdIndexA c.sioIdValueA).write c.sioIdIndexB c.sioIdValueB
  spiStatus := c.spiStatusReset
  spiAddressBytes := #v[0x00, 0x00, 0x00, 0x00]
  spiAddressRemaining := 3
  spiAddressComplete := false
  spiAddress := 0x00000000
  spiJedecCursor := 0
  bypassActive := c.bypassInit

/-- The wires right after reset: no transaction has come, nothing was returned, and the one request sent is the `Init` of
a handshake that succeeded (40_bypass.md R84; log 5, 6). -/
def Bus.reset (c : Config) : Bus where
  started := true
  pending := []
  result := none
  peerAnswers := []
  wire := if c.bypassInit then [PeerRequest.init] else []

/-- The machine right after reset with a configuration: "a single initial state for each configuration" (R211). -/
def State.resetWith (c : Config) : State where
  cfg := c
  dev := Device.reset c
  bus := Bus.reset c

/-- The machine with a configuration before the handshake of 40_bypass.md R84 has run: the instance is pre-populated, the
channel is absent (log 5). -/
def State.powerOn (c : Config) : State where
  cfg := c
  dev := { Device.reset c with bypassActive := false }
  bus := { started := false, pending := [], result := none, peerAnswers := [], wire := [] }

/-- The machine right after reset, with the reference configuration of 00_scope.md section 4 (DESIGN CHOICE, log 2). -/
def State.reset : State := State.resetWith Config.reference

/-- The context the next transaction is decoded in (30_encoding.md R61, R63, R64). -/
def State.decodeContext (s : State) : DecodeContext where
  cfg := s.cfg
  bypassActive := s.dev.bypassActive
  protocolState := s.dev.protocolState

end Sys2Proof.Machine
end

