-- ==== Sys2Proof/Machine/Ops.lean ====
section
/-! DEFINITION. The named operations the meanings are written over: staging and the data-port read, the string
auto-stage, the address accumulator, the command record, the end of a transaction, and one request to the bypass peer.
There is no exception entry and no return from one: the device has neither (60_exceptions.md R190, R197). -/

namespace Sys2Proof.Machine

/-! The device. -/

/-- `protocol_state <- p` (00_scope.md section 6.2). -/
def Device.enter (d : Device) (p : ProtocolState) : Device := { d with protocolState := p }

/-- `stage(v)` (43_ec_dispatch.md R116): overwrites whatever is staged (decision D13, log 21). -/
def Device.stage (d : Device) (v : Byte) : Device :=
  { d with dataRegister := v, commandRegister := setObf d.commandRegister }

/-- The generic data-port read's clearing of the staged byte (43_ec_dispatch.md R117): the register becomes `0x00`
(decision D4, log 15). -/
def Device.unstage (d : Device) : Device :=
  { d with dataRegister := 0x00, commandRegister := clearObf d.commandRegister }

/-- `auto_stage_project()` (43_ec_dispatch.md R118), its condition left to the caller. -/
def Device.autoStageProject (c : Config) (d : Device) : Device :=
  if charAt c.projectString d.projectCursor ≠ 0x00 then
    { d.stage (charAt c.projectString d.projectCursor) with projectCursor := d.projectCursor + 1 }
  else (d.stage terminator).enter .idle

/-- `auto_stage_version()` (43_ec_dispatch.md R119), its condition left to the caller. -/
def Device.autoStageVersion (c : Config) (d : Device) : Device :=
  if charAt c.versionString d.versionCursor ≠ 0x00 then
    { d.stage (charAt c.versionString d.versionCursor) with versionCursor := d.versionCursor + 1 }
  else (d.stage terminator).enter .idle

/-- The string auto-stage that runs before the generic data-port read, where its condition holds (43_ec_dispatch.md
R117). -/
def Device.autoStage (c : Config) (d : Device) : Device :=
  if d.protocolState = .getProject ∧ obf d.commandRegister = false then d.autoStageProject c
  else if d.protocolState = .getVersion ∧ obf d.commandRegister = false then d.autoStageVersion c
  else d

/-- `acc_reset()` (45_spi_flash.md R171): the bytes are cleared too (decision D16, log 19); `spi_address` is not
changed. -/
def Device.accReset (d : Device) : Device :=
  { d with spiAddressBytes := #v[0x00, 0x00, 0x00, 0x00], spiAddressRemaining := 3, spiAddressComplete := false }

/-- `spi_address_bytes` after an address byte is stored in the slot the counter names (45_spi_flash.md R172, R173). -/
def Device.storedAddressBytes (d : Device) (v : Byte) : Vector Byte 4 :=
  d.spiAddressBytes.set d.spiAddressRemaining.val v d.spiAddressRemaining.isLt

/-- The address accumulation common to sector erase and high-speed read (45_spi_flash.md R172, R173): store, then count
down, and at 0 mark complete and latch the address (decision D14, log 17). -/
def Device.takeAddressByte (d : Device) (v : Byte) : Device :=
  if 0 < d.spiAddressRemaining.val then
    { d with spiAddressBytes := d.storedAddressBytes v, spiAddressRemaining := d.spiAddressRemaining - 1 }
  else
    { d with
      spiAddressBytes := d.storedAddressBytes v
      spiAddressComplete := true
      spiAddress := assembleAddress (d.storedAddressBytes v) }

/-- The JEDEC read phase (44_spi_control.md R144): stage the next ID byte if any remain; the cursor moves at the staging
(decision D29, log 27). -/
def Device.stageJedec (c : Config) (d : Device) : Device :=
  if h : d.spiJedecCursor < 4 then
    { d.stage c.jedecId[d.spiJedecCursor] with spiJedecCursor := d.spiJedecCursor + 1 }
  else d

/-! The ACPI command record (42_acpi.md R103). -/

/-- The six bytes of the command record (30_encoding.md R68). -/
structure AcpiRecord where
  cmd : Byte
  d1 : Byte
  d2 : Byte
  d3 : Byte
  d4 : Byte
  d5 : Byte
  deriving DecidableEq, Repr

/-- The record as it stands in the window `acpi_space[0xF8..0xFD]`. -/
def recordOf (m : Memory) : AcpiRecord where
  cmd := m.read 0xF8
  d1 := m.read 0xF9
  d2 := m.read 0xFA
  d3 := m.read 0xFB
  d4 := m.read 0xFC
  d5 := m.read 0xFD

/-- The record after interpretation: for `cmd = 0xB1` and `d3 = 0x00` the looked-up response replaces `d1`. -/
def answeredRecord (r : AcpiRecord) : AcpiRecord :=
  if r.cmd = 0xB1 ∧ r.d3 = 0x00 then { r with d1 := lookupB1 (addr16 r.d1 r.d2) } else r

/-- The unconditional write-back of a record into the window. -/
def writeRecord (m : Memory) (r : AcpiRecord) : Memory :=
  (((((m.write 0xF8 r.cmd).write 0xF9 r.d1).write 0xFA r.d2).write 0xFB r.d3).write 0xFC r.d4).write 0xFD r.d5

/-- `interpret_record()` (42_acpi.md R103). -/
def interpretRecord (m : Memory) : Memory := writeRecord m (answeredRecord (recordOf m))

/-- `acpi_space` after the value write of 42_acpi.md R102: the store, then the interpreter if the index is `0xF8`
(decision D30, log 28). -/
def storeAcpi (m : Memory) (index v : Byte) : Memory :=
  if index = recordIndex then interpretRecord (m.write index v) else m.write index v

/-! The transaction. -/

/-- The wires after the transaction at the head of the queue has completed with a result (30_encoding.md R60; a write
returns nothing). -/
def Bus.retire (b : Bus) (r : Option Byte) : Bus := { b with pending := b.pending.tail, result := r }

/-- A completed transaction: the device it leaves and the byte it returns. -/
def State.complete (s : State) (d : Device) (r : Option Byte) : Result :=
  .next { s with dev := d, bus := s.bus.retire r }

/-- A completed write: nothing is returned. -/
def State.completeWrite (s : State) (d : Device) : Result := s.complete d none

/-- A completed read. -/
def State.completeRead (s : State) (d : Device) (r : Byte) : Result := s.complete d (some r)

/-- The wires after a request went out and the peer's answer to it was used up. -/
def Bus.exchanged (b : Bus) (r : PeerRequest) : Bus := { b with wire := b.wire ++ [r], peerAnswers := b.peerAnswers.tail }

/-- One offer of the transaction at the head of the queue to the bypass peer (`try_bypass`, 40_bypass.md R80). With the
bypass inactive nothing happens. On a reply the transaction is complete, with the result `onReply` makes of the reply
byte, and no state of the device is touched (R81, R82). On a transport failure the channel is torn down for good and the
transaction is left to internal emulation, which the same step runs (R83; log 4). Without an answer the transaction never
completes (R86; log 3). -/
def State.offer (s : State) (r : PeerRequest) (onReply : Byte → Option Byte) : Result :=
  if s.dev.bypassActive then
    match s.bus.peerAnswers with
    | [] => .fault .peerNeverAnswers
    | .reply v :: _ => .next { s with bus := (s.bus.exchanged r).retire (onReply v) }
    | .failure :: _ => .next { s with dev := { s.dev with bypassActive := false }, bus := s.bus.exchanged r }
  else .next s

end Sys2Proof.Machine
end

