-- ==== Sys2Proof/Machine/Acpi.lean ====
section
/-! DEFINITION. ACPI shadow memory access and the command record (42_acpi.md). -/

namespace Sys2Proof.Machine

/-- `ACPI_GET_INDEX` (42_acpi.md R100): `stage(acpi_space[v])`, back to `Idle`. -/
def execAcpiGetIndex (v : Byte) (s : State) : Result := s.completeWrite ((s.dev.stage (s.dev.acpiSpace.read v)).enter .idle)

/-- `ACPI_SET_INDEX` (42_acpi.md R101): the index is captured (decision D5, log 23). -/
def execAcpiSetIndex (v : Byte) (s : State) : Result := s.completeWrite ({ s.dev with acpiIndex := v }.enter .setAcpiIndex)

/-- `ACPI_SET_VALUE` (42_acpi.md R102): the store, the record interpreter if the index is `0xF8`, back to `Idle`. -/
def execAcpiSetValue (v : Byte) (s : State) : Result :=
  s.completeWrite ({ s.dev with acpiSpace := storeAcpi s.dev.acpiSpace s.dev.acpiIndex v }.enter .idle)

/-- `ACPI_REC_B1` (42_acpi.md R103): the command record whose six bytes are `B1 d1 d2 d3 d4 d5`, interpreted and written
back. It is no transaction: `ACPI_SET_VALUE` runs it inside its own, so it retires none (log 35). -/
def execAcpiRecB1 (d1 d2 d3 d4 d5 : Byte) (s : State) : Result :=
  .next { s with dev := { s.dev with
    acpiSpace := writeRecord s.dev.acpiSpace (answeredRecord { cmd := 0xB1, d1, d2, d3, d4, d5 }) } }

end Sys2Proof.Machine
end

