-- ==== Sys2Proof/Machine/Bypass.lean ====
section
/-! DEFINITION. The bypass adapter at its interface (40_bypass.md). -/

namespace Sys2Proof.Machine

/-- `BYP_INIT` (40_bypass.md R84; 70_reset_and_hazards.md R213): the handshake at reset. Its outcome is the parameter
`BYPASS_INIT`; the `Init` request of a handshake that succeeded is on the wire, its reply byte is ignored (log 5). -/
def execBypInit (s : State) : Result :=
  .next { s with
    dev := { s.dev with bypassActive := s.cfg.bypassInit }
    bus := { s.bus with
      started := true
      wire := if s.cfg.bypassInit then s.bus.wire ++ [PeerRequest.init] else s.bus.wire } }

/-- `BYP_READ` (40_bypass.md R81, R83): the peer's reply is what the read returns. -/
def execBypRead (port : Byte) (s : State) : Result := s.offer (Transaction.read port).request some

/-- `BYP_WRITE` (40_bypass.md R82, R83): the reply byte is discarded (decision D18, log 25). -/
def execBypWrite (port value : Byte) (s : State) : Result := s.offer (Transaction.write port value).request (fun _ => none)

end Sys2Proof.Machine
end

