-- ==== Sys2Proof/Machine/EcDispatch.lean ====
section
/-! DEFINITION. The EC port dispatcher: the reads of the two EC ports, the EC commands, the ignored data-port writes
(43_ec_dispatch.md). -/

namespace Sys2Proof.Machine

/-- `EC_RSTATUS` (43_ec_dispatch.md R115): returns `command_register`, no mutation. -/
def execEcRstatus (s : State) : Result := s.completeRead s.dev s.dev.commandRegister

/-- `EC_RDATA` (43_ec_dispatch.md R117): the string auto-stage (R118, R119) where its condition holds, then the staged
byte is returned and cleared. -/
def execEcRdata (s : State) : Result :=
  s.completeRead (s.dev.autoStage s.cfg).unstage (s.dev.autoStage s.cfg).dataRegister

/-- `EC_GET_ACPI` (43_ec_dispatch.md R121). -/
def execEcGetAcpi (s : State) : Result := s.completeWrite (s.dev.enter .getAcpi)

/-- `EC_SET_ACPI` (43_ec_dispatch.md R122). -/
def execEcSetAcpi (s : State) : Result := s.completeWrite (s.dev.enter .setAcpi)

/-- `EC_GET_PROJECT` (43_ec_dispatch.md R123): the cursor restarts. -/
def execEcGetProject (s : State) : Result := s.completeWrite ({ s.dev with projectCursor := 0 }.enter .getProject)

/-- `EC_GET_VERSION` (43_ec_dispatch.md R124): the cursor restarts. -/
def execEcGetVersion (s : State) : Result := s.completeWrite ({ s.dev with versionCursor := 0 }.enter .getVersion)

/-- `EC_SPI_FOLLOW` (43_ec_dispatch.md R125): enters the SPI sub-protocol, resets no SPI state. -/
def execEcSpiFollow (s : State) : Result := s.completeWrite (s.dev.enter .spiFollow)

/-- `EC_VENDOR_DC` (43_ec_dispatch.md R126): `stage(0x33)`, back to `Idle`. -/
def execEcVendorDc (s : State) : Result := s.completeWrite ((s.dev.stage vendorResponse).enter .idle)

/-- `EC_VENDOR_DE` (43_ec_dispatch.md R127): back to `Idle`, nothing staged. -/
def execEcVendorDe (s : State) : Result := s.completeWrite (s.dev.enter .idle)

/-- `EC_VENDOR_F0` (43_ec_dispatch.md R128): identical to `EC_VENDOR_DE`. -/
def execEcVendorF0 (s : State) : Result := s.completeWrite (s.dev.enter .idle)

/-- `EC_UNRECOGNISED` (43_ec_dispatch.md R129): no state change (90_conflicts.md C5). -/
def execEcUnrecognised (_c : Byte) (s : State) : Result := s.completeWrite s.dev

/-- `EC_DATA_IGNORED` (43_ec_dispatch.md R130): a data-port write in `Idle`, `GetProject`, `GetVersion` changes nothing
(decision D12, log 16). -/
def execEcDataIgnored (_v : Byte) (s : State) : Result := s.completeWrite s.dev

end Sys2Proof.Machine
end

