-- ==== Sys2Proof/Machine/SpiControl.lean ====
section
/-! DEFINITION. The SPI control-byte layer (44_spi_control.md). -/

namespace Sys2Proof.Machine

/-- `SPI_FOLLOW` (44_spi_control.md R141). -/
def execSpiFollow (s : State) : Result := s.completeWrite (s.dev.enter .spiFollow)

/-- `SPI_COMMAND` (44_spi_control.md R142). -/
def execSpiCommand (s : State) : Result := s.completeWrite (s.dev.enter .spiCommand)

/-- The device after a write phase (44_spi_control.md R143): it opens the data or address phase of the pending flash
operation and is a no-op in every other state. -/
def writePhase (d : Device) : Device :=
  match d.protocolState with
  | .spiWriteStatus => d.enter .spiWriteStatusData
  | .spiSectorErase => d.accReset.enter .spiSectorEraseAddress
  | .spiHsRead => d.accReset.enter .spiHsReadAddress
  | .spiFollow | .spiCommand | .spiReadStatus | .spiReadJedec | .spiWriteStatusData => d
  | .spiSectorEraseAddress | .spiHsReadAddress | .spiHsReadData | .spiAaiProgram => d
  | .idle | .getAcpi | .setAcpi | .setAcpiIndex | .getProject | .getVersion => d

/-- `SPI_WRITE_PHASE` (44_spi_control.md R143). -/
def execSpiWritePhase (s : State) : Result := s.completeWrite (writePhase s.dev)

/-- The device after a read phase (44_spi_control.md R144): one response byte of the pending flash operation is staged;
a no-op in every other state. -/
def readPhase (c : Config) (d : Device) : Device :=
  match d.protocolState with
  | .spiReadStatus => d.stage d.spiStatus
  | .spiReadJedec => d.stageJedec c
  | .spiHsReadData => d.stage filler
  | .spiFollow | .spiCommand | .spiWriteStatus | .spiWriteStatusData | .spiSectorErase | .spiSectorEraseAddress => d
  | .spiHsRead | .spiHsReadAddress | .spiAaiProgram => d
  | .idle | .getAcpi | .setAcpi | .setAcpiIndex | .getProject | .getVersion => d

/-- `SPI_READ_PHASE` (44_spi_control.md R144). -/
def execSpiReadPhase (s : State) : Result := s.completeWrite (readPhase s.cfg s.dev)

/-- `SPI_UNFOLLOW` (44_spi_control.md R145): back to `Idle`, no SPI state cleared. -/
def execSpiUnfollow (s : State) : Result := s.completeWrite (s.dev.enter .idle)

/-- `SPI_UNRECOGNISED` (44_spi_control.md R146): no state change (90_conflicts.md C5; decision D12, log 16). -/
def execSpiUnrecognised (_c : Byte) (s : State) : Result := s.completeWrite s.dev

end Sys2Proof.Machine
end

