-- ==== Sys2Proof/Machine/SpiFlash.lean ====
section
/-! DEFINITION. Flash opcode dispatch, the address accumulator, the status write (45_spi_flash.md). No opcode checks
`WEL` and there is no flash array (R177; decision D17, log 20). -/

namespace Sys2Proof.Machine

/-- `FL_WRSR` (45_spi_flash.md R161). -/
def execFlWrsr (s : State) : Result := s.completeWrite (s.dev.enter .spiWriteStatus)

/-- `FL_WRDI` (45_spi_flash.md R162): `WEL <- 0`. -/
def execFlWrdi (s : State) : Result :=
  s.completeWrite ({ s.dev with spiStatus := clearWel s.dev.spiStatus }.enter .spiFollow)

/-- `FL_RDSR` (45_spi_flash.md R163). -/
def execFlRdsr (s : State) : Result := s.completeWrite (s.dev.enter .spiReadStatus)

/-- `FL_WREN` (45_spi_flash.md R164): `WEL <- 1`. -/
def execFlWren (s : State) : Result :=
  s.completeWrite ({ s.dev with spiStatus := setWel s.dev.spiStatus }.enter .spiFollow)

/-- `FL_HSREAD` (45_spi_flash.md R165). -/
def execFlHsread (s : State) : Result := s.completeWrite (s.dev.accReset.enter .spiHsRead)

/-- `FL_SE` (45_spi_flash.md R166). -/
def execFlSe (s : State) : Result := s.completeWrite (s.dev.accReset.enter .spiSectorErase)

/-- `FL_SE_D7` (45_spi_flash.md R167): identical to `FL_SE`. -/
def execFlSeD7 (s : State) : Result := s.completeWrite (s.dev.accReset.enter .spiSectorErase)

/-- `FL_RDID` (45_spi_flash.md R168): the ID restarts. -/
def execFlRdid (s : State) : Result := s.completeWrite ({ s.dev with spiJedecCursor := 0 }.enter .spiReadJedec)

/-- `FL_AAI` (45_spi_flash.md R170): the state is entered, nothing else (93_implementation_defined.md U2). -/
def execFlAai (s : State) : Result := s.completeWrite (s.dev.enter .spiAaiProgram)

/-- `FL_UNRECOGNISED` (45_spi_flash.md R169): no state change (90_conflicts.md C5; decision D12, log 16). -/
def execFlUnrecognised (_v : Byte) (s : State) : Result := s.completeWrite s.dev

/-- `FL_STATUS_DATA` (45_spi_flash.md R175): all eight bits are written, unmasked (93_implementation_defined.md U3). -/
def execFlStatusData (v : Byte) (s : State) : Result :=
  s.completeWrite ({ s.dev with spiStatus := v }.enter .spiWriteStatus)

/-- `FL_ADDR_SE` (45_spi_flash.md R172): the byte that finds the counter at 0 ends the operation. -/
def execFlAddrSe (v : Byte) (s : State) : Result :=
  if 0 < s.dev.spiAddressRemaining.val then s.completeWrite (s.dev.takeAddressByte v)
  else s.completeWrite ((s.dev.takeAddressByte v).enter .spiFollow)

/-- `FL_ADDR_HS` (45_spi_flash.md R173): an address byte until the address is complete, then the dummy byte. -/
def execFlAddrHs (v : Byte) (s : State) : Result :=
  if s.dev.spiAddressComplete then s.completeWrite (s.dev.enter .spiHsReadData)
  else s.completeWrite (s.dev.takeAddressByte v)

/-- `FL_AAI_DATA` (45_spi_flash.md R170): a data byte in `SpiAaiProgram` is accepted and ignored. -/
def execFlAaiData (_v : Byte) (s : State) : Result := s.completeWrite s.dev

/-- `FL_DATA_IGNORED` (45_spi_flash.md R176): a data-port write in an SPI state that consumes none changes nothing
(decision D12, log 16). -/
def execFlDataIgnored (_v : Byte) (s : State) : Result := s.completeWrite s.dev

end Sys2Proof.Machine
end

