-- ==== Sys2Proof/Machine/SuperIo.lean ====
section
/-! DEFINITION. The SuperIO indexed register file (41_superio.md) and the unsupported ports (30_encoding.md R62). -/

namespace Sys2Proof.Machine

/-- `SIO_WADDR` (41_superio.md R90): `superio_address <- v`. -/
def execSioWaddr (v : Byte) (s : State) : Result := s.completeWrite { s.dev with superioAddress := v }

/-- `SIO_RADDR` (41_superio.md R91): returns `superio_address`. -/
def execSioRaddr (s : State) : Result := s.completeRead s.dev s.dev.superioAddress

/-- `SIO_WDATA` (41_superio.md R92): `superio_registers[superio_address] <- v`; the selector is not incremented. -/
def execSioWdata (v : Byte) (s : State) : Result :=
  s.completeWrite { s.dev with superioRegisters := s.dev.superioRegisters.write s.dev.superioAddress v }

/-- `SIO_RDATA` (41_superio.md R93): returns `superio_registers[superio_address]`. -/
def execSioRdata (s : State) : Result := s.completeRead s.dev (s.dev.superioRegisters.read s.dev.superioAddress)

/-- `PORT_UNSUPPORTED` (30_encoding.md R62): a read returns `0x00`, a write does nothing (decision D19, log 26). -/
def execPortUnsupported (t : Transaction) (s : State) : Result :=
  match t with
  | .read _ => s.completeRead s.dev 0x00
  | .write _ _ => s.completeWrite s.dev

end Sys2Proof.Machine
end

