-- ==== Sys2Proof/Syntax.lean ====
section
/-! DEFINITION. The instructions: one constructor for each row of spec/opcode_table.json, in the table's order, with the
operand bytes the row carries (30_encoding.md R60, R71). -/

namespace Sys2Proof

/-- One decoded operation of the engine. -/
inductive Instr where
  -- format transaction
  | sioWaddr (v : Byte)
  | sioRaddr
  | sioWdata (v : Byte)
  | sioRdata
  | ecRstatus
  | ecRdata
  | portUnsupported (t : Machine.Transaction)
  -- format ec_command
  | ecGetAcpi
  | ecSetAcpi
  | ecGetProject
  | ecGetVersion
  | ecSpiFollow
  | ecVendorDc
  | ecVendorDe
  | ecVendorF0
  | ecUnrecognised (c : Byte)
  -- format spi_control
  | spiFollow
  | spiCommand
  | spiWritePhase
  | spiReadPhase
  | spiUnfollow
  | spiUnrecognised (c : Byte)
  -- format flash_opcode
  | flWrsr
  | flWrdi
  | flRdsr
  | flWren
  | flHsread
  | flSe
  | flSeD7
  | flRdid
  | flAai
  | flUnrecognised (v : Byte)
  -- format data_phase
  | acpiGetIndex (v : Byte)
  | acpiSetIndex (v : Byte)
  | acpiSetValue (v : Byte)
  | flStatusData (v : Byte)
  | flAddrSe (v : Byte)
  | flAddrHs (v : Byte)
  | flAaiData (v : Byte)
  | ecDataIgnored (v : Byte)
  | flDataIgnored (v : Byte)
  -- format acpi_record: the window's five bytes after `cmd` (30_encoding.md R68)
  | acpiRecB1 (d1 d2 d3 d4 d5 : Byte)
  -- format bypass_request
  | bypInit
  | bypRead (port : Byte)
  | bypWrite (port value : Byte)
  deriving DecidableEq, Repr

end Sys2Proof
end

