-- ==== Sys2Proof/Machine/Dispatch.lean ====
section
/-! DEFINITION. The dispatcher: one arm for each instruction, one direct call of its meaning. -/

namespace Sys2Proof.Machine

def exec (i : Instr) (s : State) : Host.Outcome State Fault Refusal :=
  match i with
  | .sioWaddr v => Sys2Proof.Machine.execSioWaddr v s
  | .sioRaddr => Sys2Proof.Machine.execSioRaddr s
  | .sioWdata v => Sys2Proof.Machine.execSioWdata v s
  | .sioRdata => Sys2Proof.Machine.execSioRdata s
  | .ecRstatus => Sys2Proof.Machine.execEcRstatus s
  | .ecRdata => Sys2Proof.Machine.execEcRdata s
  | .portUnsupported t => Sys2Proof.Machine.execPortUnsupported t s
  | .ecGetAcpi => Sys2Proof.Machine.execEcGetAcpi s
  | .ecSetAcpi => Sys2Proof.Machine.execEcSetAcpi s
  | .ecGetProject => Sys2Proof.Machine.execEcGetProject s
  | .ecGetVersion => Sys2Proof.Machine.execEcGetVersion s
  | .ecSpiFollow => Sys2Proof.Machine.execEcSpiFollow s
  | .ecVendorDc => Sys2Proof.Machine.execEcVendorDc s
  | .ecVendorDe => Sys2Proof.Machine.execEcVendorDe s
  | .ecVendorF0 => Sys2Proof.Machine.execEcVendorF0 s
  | .ecUnrecognised c => Sys2Proof.Machine.execEcUnrecognised c s
  | .spiFollow => Sys2Proof.Machine.execSpiFollow s
  | .spiCommand => Sys2Proof.Machine.execSpiCommand s
  | .spiWritePhase => Sys2Proof.Machine.execSpiWritePhase s
  | .spiReadPhase => Sys2Proof.Machine.execSpiReadPhase s
  | .spiUnfollow => Sys2Proof.Machine.execSpiUnfollow s
  | .spiUnrecognised c => Sys2Proof.Machine.execSpiUnrecognised c s
  | .flWrsr => Sys2Proof.Machine.execFlWrsr s
  | .flWrdi => Sys2Proof.Machine.execFlWrdi s
  | .flRdsr => Sys2Proof.Machine.execFlRdsr s
  | .flWren => Sys2Proof.Machine.execFlWren s
  | .flHsread => Sys2Proof.Machine.execFlHsread s
  | .flSe => Sys2Proof.Machine.execFlSe s
  | .flSeD7 => Sys2Proof.Machine.execFlSeD7 s
  | .flRdid => Sys2Proof.Machine.execFlRdid s
  | .flAai => Sys2Proof.Machine.execFlAai s
  | .flUnrecognised v => Sys2Proof.Machine.execFlUnrecognised v s
  | .acpiGetIndex v => Sys2Proof.Machine.execAcpiGetIndex v s
  | .acpiSetIndex v => Sys2Proof.Machine.execAcpiSetIndex v s
  | .acpiSetValue v => Sys2Proof.Machine.execAcpiSetValue v s
  | .flStatusData v => Sys2Proof.Machine.execFlStatusData v s
  | .flAddrSe v => Sys2Proof.Machine.execFlAddrSe v s
  | .flAddrHs v => Sys2Proof.Machine.execFlAddrHs v s
  | .flAaiData v => Sys2Proof.Machine.execFlAaiData v s
  | .ecDataIgnored v => Sys2Proof.Machine.execEcDataIgnored v s
  | .flDataIgnored v => Sys2Proof.Machine.execFlDataIgnored v s
  | .acpiRecB1 d1 d2 d3 d4 d5 => Sys2Proof.Machine.execAcpiRecB1 d1 d2 d3 d4 d5 s
  | .bypInit => Sys2Proof.Machine.execBypInit s
  | .bypRead port => Sys2Proof.Machine.execBypRead port s
  | .bypWrite port value => Sys2Proof.Machine.execBypWrite port value s

end Sys2Proof.Machine
end

