-- ==== Sys2Proof/WellFormed.lean ====
section
/-! DEFINITION. When an instruction is well formed (its operand bytes are ones its row admits) and in which context its
row is selected (the row's `state` condition in spec/opcode_table.json). -/

namespace Sys2Proof

open Machine

/-- The port number of a transaction. -/
def Machine.Transaction.port : Transaction → Byte
  | .read p => p
  | .write p _ => p

/-- The four port numbers with a meaning (20_memory.md R40). -/
def Config.ports (c : Config) : List Byte := [c.portSioAddr, c.portSioData, c.portEcData, c.portEcCmd]

/-- The eight recognised EC commands (30_encoding.md R65). -/
def ecCommandBytes : List Byte := [0x80, 0x81, 0x92, 0x93, 0x01, 0xDC, 0xDE, 0xF0]

/-- The five recognised SPI control bytes (30_encoding.md R66). -/
def spiControlBytes : List Byte := [0x01, 0x02, 0x03, 0x04, 0x05]

/-- The nine recognised flash opcodes (30_encoding.md R67). -/
def flashOpcodeBytes : List Byte := [0x01, 0x04, 0x05, 0x06, 0x0B, 0x20, 0xD7, 0x9F, 0xAD]

/-- An instruction is well formed when its operand is one its row admits: a default row holds only what no other row of
its format matches (30_encoding.md section 2), every other operand is any byte. -/
def Instr.wellFormed (c : Config) : Instr → Bool
  | .portUnsupported t => !c.ports.contains t.port
  | .ecUnrecognised b => !ecCommandBytes.contains b
  | .spiUnrecognised b => !spiControlBytes.contains b
  | .flUnrecognised b => !flashOpcodeBytes.contains b
  | .sioWaddr _ | .sioRaddr | .sioWdata _ | .sioRdata | .ecRstatus | .ecRdata => true
  | .ecGetAcpi | .ecSetAcpi | .ecGetProject | .ecGetVersion | .ecSpiFollow => true
  | .ecVendorDc | .ecVendorDe | .ecVendorF0 => true
  | .spiFollow | .spiCommand | .spiWritePhase | .spiReadPhase | .spiUnfollow => true
  | .flWrsr | .flWrdi | .flRdsr | .flWren | .flHsread | .flSe | .flSeD7 | .flRdid | .flAai => true
  | .acpiGetIndex _ | .acpiSetIndex _ | .acpiSetValue _ | .flStatusData _ => true
  | .flAddrSe _ | .flAddrHs _ | .flAaiData _ | .ecDataIgnored _ | .flDataIgnored _ => true
  | .acpiRecB1 _ _ _ _ _ | .bypInit | .bypRead _ | .bypWrite _ _ => true

/-- The protocol states in which a row that internal emulation runs is selected (the rows' `state` in
spec/opcode_table.json; 30_encoding.md R63, R64). -/
def Instr.inState (p : ProtocolState) : Instr → Bool
  | .sioWaddr _ | .sioRaddr | .sioWdata _ | .sioRdata | .ecRstatus | .ecRdata | .portUnsupported _ => true
  | .ecGetAcpi | .ecSetAcpi | .ecGetProject | .ecGetVersion | .ecSpiFollow => !p.isSpi
  | .ecVendorDc | .ecVendorDe | .ecVendorF0 | .ecUnrecognised _ => !p.isSpi
  | .spiFollow | .spiCommand | .spiWritePhase | .spiReadPhase | .spiUnfollow | .spiUnrecognised _ => p.isSpi
  | .flWrsr | .flWrdi | .flRdsr | .flWren | .flHsread => p = .spiCommand
  | .flSe | .flSeD7 | .flRdid | .flAai | .flUnrecognised _ => p = .spiCommand
  | .acpiGetIndex _ => p = .getAcpi
  | .acpiSetIndex _ => p = .setAcpi
  | .acpiSetValue _ => p = .setAcpiIndex
  | .flStatusData _ => p = .spiWriteStatusData
  | .flAddrSe _ => p = .spiSectorEraseAddress
  | .flAddrHs _ => p = .spiHsReadAddress
  | .flAaiData _ => p = .spiAaiProgram
  | .ecDataIgnored _ => [.idle, .getProject, .getVersion].contains p
  | .flDataIgnored _ =>
    [.spiFollow, .spiReadStatus, .spiReadJedec, .spiWriteStatus, .spiSectorErase, .spiHsRead, .spiHsReadData].contains p
  | .acpiRecB1 _ _ _ _ _ | .bypInit | .bypRead _ | .bypWrite _ _ => true

/-- The `format` of a row of spec/opcode_table.json: the layer that matches it (30_encoding.md section 2). -/
inductive Format where
  | transaction | ecCommand | spiControl | flashOpcode | dataPhase | acpiRecord | bypassRequest
  deriving DecidableEq, Repr

/-- The `format` of an instruction's row. -/
def Instr.format : Instr → Format
  | .sioWaddr _ | .sioRaddr | .sioWdata _ | .sioRdata | .ecRstatus | .ecRdata | .portUnsupported _ => .transaction
  | .ecGetAcpi | .ecSetAcpi | .ecGetProject | .ecGetVersion | .ecSpiFollow => .ecCommand
  | .ecVendorDc | .ecVendorDe | .ecVendorF0 | .ecUnrecognised _ => .ecCommand
  | .spiFollow | .spiCommand | .spiWritePhase | .spiReadPhase | .spiUnfollow | .spiUnrecognised _ => .spiControl
  | .flWrsr | .flWrdi | .flRdsr | .flWren | .flHsread => .flashOpcode
  | .flSe | .flSeD7 | .flRdid | .flAai | .flUnrecognised _ => .flashOpcode
  | .acpiGetIndex _ | .acpiSetIndex _ | .acpiSetValue _ | .flStatusData _ => .dataPhase
  | .flAddrSe _ | .flAddrHs _ | .flAaiData _ | .ecDataIgnored _ | .flDataIgnored _ => .dataPhase
  | .acpiRecB1 _ _ _ _ _ => .acpiRecord
  | .bypInit | .bypRead _ | .bypWrite _ _ => .bypassRequest

/-- The row of an instruction is selected in a context: the requests to the peer exactly when the bypass is active
(40_bypass.md R81, R82), the internally emulated rows exactly when it is not and their protocol state holds
(30_encoding.md R61). The record and the `Init` request are recognised by their bytes alone. -/
def Instr.selectedBy (k : DecodeContext) (i : Instr) : Bool :=
  match i.format with
  | .transaction | .ecCommand | .spiControl | .flashOpcode | .dataPhase => !k.bypassActive && i.inState k.protocolState
  | .acpiRecord => true
  | .bypassRequest => i = .bypInit || k.bypassActive

end Sys2Proof
end

