-- ==== Sys2Proof/Decode.lean ====
section
/-! DEFINITION. The decoder (30_encoding.md R61 to R69) and after it the encoder. A transaction is decoded from its triple
under a context; as bytes it is the three request bytes `kind address value` (R69; the second rendering of
95_test_vectors.md section 0), and the ACPI command record is its six bytes (R68). Log 12. -/

namespace Sys2Proof

open Machine

/-- Why a string of bytes is no instruction. Raised by `decode` only: no host transaction is ever rejected, since the
decoder of triples below is total (30_encoding.md R73). Safe: a rejected string never runs. -/
inductive DecodeError where
  /-- Neither the three bytes of a transaction nor the six bytes of a command record. -/
  | wrongLength (n : Nat)
  /-- The first byte is none of `Init` = 0, `Read` = 1, `Write` = 2 (R69). -/
  | unknownKind (kind : Byte)
  /-- An `Init` request whose operand bytes are not `00 00` (R69, D18). -/
  | initOperandsNotZero (address value : Byte)
  /-- A `Read` request whose value byte is not `00` (R69, D18). -/
  | readValueNotZero (value : Byte)
  /-- A command record whose `cmd` is not `0xB1`: the interpreter does nothing with it (R68, R103). -/
  | unrecognisedRecord (cmd : Byte)
  deriving DecidableEq, Repr

/-- EC command map (30_encoding.md R65): a command-port write in a non-SPI state. -/
def decodeEcCommand (c : Byte) : Instr :=
  if c = 0x80 then .ecGetAcpi
  else if c = 0x81 then .ecSetAcpi
  else if c = 0x92 then .ecGetProject
  else if c = 0x93 then .ecGetVersion
  else if c = 0x01 then .ecSpiFollow
  else if c = 0xDC then .ecVendorDc
  else if c = 0xDE then .ecVendorDe
  else if c = 0xF0 then .ecVendorF0
  else .ecUnrecognised c

/-- SPI control byte map (30_encoding.md R66): a command-port write in an SPI state. -/
def decodeSpiControl (c : Byte) : Instr :=
  if c = 0x01 then .spiFollow
  else if c = 0x02 then .spiCommand
  else if c = 0x03 then .spiWritePhase
  else if c = 0x04 then .spiReadPhase
  else if c = 0x05 then .spiUnfollow
  else .spiUnrecognised c

/-- Flash opcode map (30_encoding.md R67): a data-port write in `SpiCommand`. -/
def decodeFlashOpcode (v : Byte) : Instr :=
  if v = 0x01 then .flWrsr
  else if v = 0x04 then .flWrdi
  else if v = 0x05 then .flRdsr
  else if v = 0x06 then .flWren
  else if v = 0x0B then .flHsread
  else if v = 0x20 then .flSe
  else if v = 0xD7 then .flSeD7
  else if v = 0x9F then .flRdid
  else if v = 0xAD then .flAai
  else .flUnrecognised v

/-- Command-port write decoder (30_encoding.md R63): by the protocol state before the write. -/
def decodeCommandWrite (p : ProtocolState) (c : Byte) : Instr :=
  if p.isSpi then decodeSpiControl c else decodeEcCommand c

/-- Data-port write decoder (the table under 30_encoding.md R64): by the protocol state before the write. -/
def decodeDataWrite (p : ProtocolState) (v : Byte) : Instr :=
  match p with
  | .getAcpi => .acpiGetIndex v
  | .setAcpi => .acpiSetIndex v
  | .setAcpiIndex => .acpiSetValue v
  | .spiCommand => decodeFlashOpcode v
  | .spiWriteStatusData => .flStatusData v
  | .spiSectorEraseAddress => .flAddrSe v
  | .spiHsReadAddress => .flAddrHs v
  | .spiAaiProgram => .flAaiData v
  | .idle | .getProject | .getVersion => .ecDataIgnored v
  | .spiFollow | .spiReadStatus | .spiReadJedec | .spiWriteStatus => .flDataIgnored v
  | .spiSectorErase | .spiHsRead | .spiHsReadData => .flDataIgnored v

/-- Port routing of internal emulation (30_encoding.md R62): every transaction has exactly one row. -/
def routePort (c : Config) (p : ProtocolState) : Transaction → Instr
  | .read port =>
    if port = c.portSioAddr then .sioRaddr
    else if port = c.portSioData then .sioRdata
    else if port = c.portEcData then .ecRdata
    else if port = c.portEcCmd then .ecRstatus
    else .portUnsupported (.read port)
  | .write port v =>
    if port = c.portSioAddr then .sioWaddr v
    else if port = c.portSioData then .sioWdata v
    else if port = c.portEcData then decodeDataWrite p v
    else if port = c.portEcCmd then decodeCommandWrite p v
    else .portUnsupported (.write port v)

/-- The request that offers a transaction to the active bypass (40_bypass.md R81, R82). -/
def bypassRequest : Transaction → Instr
  | .read port => .bypRead port
  | .write port v => .bypWrite port v

/-- The order of decoding inside one transaction (30_encoding.md R61): the bypass first, then the port. Total: no
encoding traps (R73). -/
def decodeTransaction (k : DecodeContext) (t : Transaction) : Instr :=
  if k.bypassActive then bypassRequest t else routePort k.cfg k.protocolState t

/-- The command record (30_encoding.md R68): one value of `cmd` is recognised. -/
def decodeRecord (cmd d1 d2 d3 d4 d5 : Byte) : Except DecodeError Instr :=
  if cmd = 0xB1 then .ok (.acpiRecB1 d1 d2 d3 d4 d5) else .error (.unrecognisedRecord cmd)

/-- The three bytes of a request (30_encoding.md R69). -/
def decodeRequest (k : DecodeContext) (kind address value : Byte) : Except DecodeError Instr :=
  if kind = 0x00 then
    if address = 0x00 ∧ value = 0x00 then .ok .bypInit else .error (.initOperandsNotZero address value)
  else if kind = 0x01 then
    if value = 0x00 then .ok (decodeTransaction k (.read address)) else .error (.readValueNotZero value)
  else if kind = 0x02 then .ok (decodeTransaction k (.write address value))
  else .error (.unknownKind kind)

/-- The decoder, total on any bytes, rejecting by name (log 12). -/
def decode (k : DecodeContext) (bytes : List Byte) : Except DecodeError Instr :=
  match bytes with
  | [kind, address, value] => decodeRequest k kind address value
  | [cmd, d1, d2, d3, d4, d5] => decodeRecord cmd d1 d2 d3 d4 d5
  | other => .error (.wrongLength other.length)

/-! The encoder, from the same tables. -/

/-- The transaction an instruction is; none for the two rows that are no transaction: the `Init` request and the command
record. -/
def Instr.transaction? (c : Config) : Instr → Option Transaction
  | .sioWaddr v => some (.write c.portSioAddr v)
  | .sioRaddr => some (.read c.portSioAddr)
  | .sioWdata v => some (.write c.portSioData v)
  | .sioRdata => some (.read c.portSioData)
  | .ecRstatus => some (.read c.portEcCmd)
  | .ecRdata => some (.read c.portEcData)
  | .portUnsupported t => some t
  | .ecGetAcpi => some (.write c.portEcCmd 0x80)
  | .ecSetAcpi => some (.write c.portEcCmd 0x81)
  | .ecGetProject => some (.write c.portEcCmd 0x92)
  | .ecGetVersion => some (.write c.portEcCmd 0x93)
  | .ecSpiFollow => some (.write c.portEcCmd 0x01)
  | .ecVendorDc => some (.write c.portEcCmd 0xDC)
  | .ecVendorDe => some (.write c.portEcCmd 0xDE)
  | .ecVendorF0 => some (.write c.portEcCmd 0xF0)
  | .ecUnrecognised b => some (.write c.portEcCmd b)
  | .spiFollow => some (.write c.portEcCmd 0x01)
  | .spiCommand => some (.write c.portEcCmd 0x02)
  | .spiWritePhase => some (.write c.portEcCmd 0x03)
  | .spiReadPhase => some (.write c.portEcCmd 0x04)
  | .spiUnfollow => some (.write c.portEcCmd 0x05)
  | .spiUnrecognised b => some (.write c.portEcCmd b)
  | .flWrsr => some (.write c.portEcData 0x01)
  | .flWrdi => some (.write c.portEcData 0x04)
  | .flRdsr => some (.write c.portEcData 0x05)
  | .flWren => some (.write c.portEcData 0x06)
  | .flHsread => some (.write c.portEcData 0x0B)
  | .flSe => some (.write c.portEcData 0x20)
  | .flSeD7 => some (.write c.portEcData 0xD7)
  | .flRdid => some (.write c.portEcData 0x9F)
  | .flAai => some (.write c.portEcData 0xAD)
  | .flUnrecognised v => some (.write c.portEcData v)
  | .acpiGetIndex v => some (.write c.portEcData v)
  | .acpiSetIndex v => some (.write c.portEcData v)
  | .acpiSetValue v => some (.write c.portEcData v)
  | .flStatusData v => some (.write c.portEcData v)
  | .flAddrSe v => some (.write c.portEcData v)
  | .flAddrHs v => some (.write c.portEcData v)
  | .flAaiData v => some (.write c.portEcData v)
  | .ecDataIgnored v => some (.write c.portEcData v)
  | .flDataIgnored v => some (.write c.portEcData v)
  | .acpiRecB1 _ _ _ _ _ => none
  | .bypInit => none
  | .bypRead port => some (.read port)
  | .bypWrite port v => some (.write port v)

/-- The five operand bytes of a command record; zeros for every other instruction. -/
def Instr.recordOperands : Instr → List Byte
  | .acpiRecB1 d1 d2 d3 d4 d5 => [d1, d2, d3, d4, d5]
  | _ => [0x00, 0x00, 0x00, 0x00, 0x00]

/-- The bytes of an instruction: the request bytes of its transaction (R69), `00 00 00` for `Init`, the record's six
bytes (R68). -/
def encode (c : Config) (i : Instr) : List Byte :=
  match i.transaction? c with
  | some t => t.request.bytes
  | none => if i = .bypInit then PeerRequest.init.bytes else 0xB1 :: i.recordOperands

/-! The words of spec/opcode_table.json. -/

/-- The context and the bytes in which a byte of spec/opcode_table.json standing alone is read, its operand bytes zero,
under the reference configuration. A byte names rows of several layers (`0x01` is four rows); the first layer that knows
it is taken, in this order: port numbers (the writing row of the SuperIO pair), EC commands, SPI control bytes, flash
opcodes, the record command, the `Init` request; any other byte is one written to the command port in `Idle`. DESIGN
CHOICE, safe (log 10): a convention for the host's question about single table words; no step uses it. -/
def tableByteWords (b : Byte) : DecodeContext × List Byte :=
  let c := Config.reference
  let ctx (p : ProtocolState) : DecodeContext := { cfg := c, bypassActive := false, protocolState := p }
  if b = c.portSioAddr ∨ b = c.portSioData then (ctx .idle, [0x02, b, 0x00])
  else if b = c.portEcData ∨ b = c.portEcCmd then (ctx .idle, [0x01, b, 0x00])
  else if ecCommandBytes.contains b then (ctx .idle, [0x02, c.portEcCmd, b])
  else if spiControlBytes.contains b then (ctx .spiFollow, [0x02, c.portEcCmd, b])
  else if flashOpcodeBytes.contains b then (ctx .spiCommand, [0x02, c.portEcData, b])
  else if b = 0xB1 then (ctx .idle, [b, 0x00, 0x00, 0x00, 0x00, 0x00])
  else if b = 0x00 then (ctx .idle, [b, 0x00, 0x00])
  else (ctx .idle, [0x02, c.portEcCmd, b])

/-- The lowest `n` bytes of `w`, least significant first. -/
def bytesOf : Nat → Nat → List Byte
  | 0, _ => []
  | n + 1, w => BitVec.ofNat 8 w :: bytesOf n (w / 256)

/-- The decoder's answer as an option. -/
def decoded : Except DecodeError Instr → Option Instr
  | .ok i => some i
  | .error _ => none

/-- What the decoder reads from an instruction numbered as spec/opcode_table.json numbers it. Every row of the table is
one byte wide; the three bytes of a transaction and the six of a record are read too, in the context after reset. -/
def decodeTableWord (nbits w : Nat) : Option Instr :=
  if nbits = 8 then decoded (decode (tableByteWords (BitVec.ofNat 8 w)).1 (tableByteWords (BitVec.ofNat 8 w)).2)
  else if nbits = 24 ∨ nbits = 48 then
    decoded (decode { cfg := Config.reference, bypassActive := false, protocolState := .idle } (bytesOf (nbits / 8) w))
  else none

end Sys2Proof
end

