-- ==== Sys2Proof/Machine/Fetch.lean ====
section
/-! DEFINITION. What the next step runs (60_exceptions.md R195): the handshake before the first transaction, the
transaction at the head of the host's queue, and its internal emulation when the bypass fails under it. And how a word is
put where the next step fetches it. -/

namespace Sys2Proof.Machine

/-- What a step finds to do. -/
inductive Fetched where
  /-- No transaction has come: the device never changes state between transactions (20_memory.md R53 d). -/
  | nothing
  /-- An instruction to run. -/
  | run (i : Instr)
  /-- An access refused at the boundary (20_memory.md R48). -/
  | refuse (r : Refusal)
  deriving DecidableEq, Repr

/-- The transaction at the head of the queue, as it is decoded in a state. -/
def fetchAccess (s : State) (a : HostAccess) : Fetched :=
  match a.transaction? with
  | some t => .run (decodeTransaction s.decodeContext t)
  | none => .refuse .accessNotOneByte

/-- The next thing to do: the handshake once, before the first transaction (40_bypass.md R84; 70_reset_and_hazards.md
R210), then the host's accesses in order (20_memory.md R53). -/
def fetch (s : State) : Fetched :=
  if s.bus.started then
    match s.bus.pending with
    | [] => .nothing
    | a :: _ => fetchAccess s a
  else .run .bypInit

/-- The bypass failed in the step from `s` to `s'`: "the transaction during which the failure happened is then performed
by internal emulation in full" (40_bypass.md R83), so the step goes on with it. -/
def bypassFailed (s s' : State) : Bool := s.bus.started && s.dev.bypassActive && !s'.dev.bypassActive

/-- The rest of a step after an instruction answered: a transaction whose bypass failed under it is performed by internal
emulation in the same step (40_bypass.md R83). `run` is the dispatcher. -/
def afterRun (run : Instr → State → Result) (s : State) : Result → Result
  | .next s' =>
    if bypassFailed s s' then
      match fetch s' with
      | .run j => run j s'
      | .nothing => .next s'
      | .refuse r => .refused r
    else .next s'
  | .fault f => .fault f
  | .refused r => .refused r

/-- One step over a dispatcher: one transaction, performed whole (20_memory.md R51, R53; 60_exceptions.md R195). With no
transaction waiting nothing changes (R53 d; log 8). -/
def stepWith (run : Instr → State → Result) (s : State) : Result :=
  match fetch s with
  | .nothing => .next s
  | .refuse r => .refused r
  | .run i => afterRun run s (run i s)

/-- A protocol state in which an instruction's row is selected: the given one where it will do. -/
def selectingState (p : ProtocolState) (i : Instr) : ProtocolState :=
  if i.inState p then p
  else match i.format with
    | .transaction | .acpiRecord | .bypassRequest => p
    | .ecCommand => .idle
    | .spiControl => .spiFollow
    | .flashOpcode => .spiCommand
    | .dataPhase =>
      (([.getAcpi, .setAcpi, .setAcpiIndex, .spiWriteStatusData, .spiSectorEraseAddress, .spiHsReadAddress, .spiAaiProgram,
        .idle, .spiFollow] : List ProtocolState).find? (fun q => i.inState q)).getD p

/-- The machine with one transaction placed at its port, in a protocol state, the bypass answering or not. -/
def placed (s : State) (t : Transaction) (p : ProtocolState) (bypass : Bool) : State :=
  { s with
    dev := { s.dev with protocolState := p, bypassActive := bypass }
    bus := { s.bus with started := true, pending := [t.access] } }

/-- The machine with an instruction placed where the next step fetches it (log 10, 11): the transaction alone in the
queue and the protocol state selecting its row; for the command record the operand bytes in the window and the value
write that triggers it; for the handshake the machine before its start. -/
def State.present (s : State) (i : Instr) : State :=
  match i with
  | .bypInit => { s with bus := { s.bus with started := false } }
  | .acpiRecB1 d1 d2 d3 d4 d5 =>
    let m := ((((s.dev.acpiSpace.write 0xF9 d1).write 0xFA d2).write 0xFB d3).write 0xFC d4).write 0xFD d5
    placed { s with dev := { s.dev with acpiSpace := m, acpiIndex := 0xF8 } } (.write s.cfg.portEcData 0xB1) .setAcpiIndex false
  | i =>
    match i.transaction? s.cfg with
    | some t => placed s t (selectingState s.dev.protocolState i) (i.format = .bypassRequest)
    | none => s

end Sys2Proof.Machine
end

