-- ==== Sys2Proof/Safety.lean ====
section
/-! DEFINITION. What claims speak of: the invariants of 10_state.md section 9, and a run that does not stop. -/

namespace Sys2Proof.Machine

/-- The invariants of the device (10_state.md R11, R27, R28, R29, R31), with what the address phases add to them. -/
structure Device.Consistent (c : Config) (d : Device) : Prop where
  /-- R11: `command_register[7:1]` reads as zero, so the register is `0x00` or `0x01`. -/
  commandRegister : d.commandRegister = 0x00 ∨ d.commandRegister = 0x01
  /-- R29: with `OBF = 0` the data register is `0x00`. -/
  nothingStaged : obf d.commandRegister = false → d.dataRegister = 0x00
  /-- R27, the project string. -/
  projectCursor : d.projectCursor ≤ c.projectString.chars.length
  /-- R27, the version string. -/
  versionCursor : d.versionCursor ≤ c.versionString.chars.length
  /-- R31. -/
  jedecCursor : d.spiJedecCursor ≤ 4
  /-- R28: a complete address leaves the counter at 0. -/
  completeAtZero : d.spiAddressComplete = true → d.spiAddressRemaining = 0
  /-- R174, R23, R24: a complete address is the one latched. -/
  latched : d.spiAddressComplete = true → d.spiAddress = assembleAddress d.spiAddressBytes
  /-- R172: the fourth byte of a sector erase leaves the address phase. -/
  eraseIncomplete : d.protocolState = .spiSectorEraseAddress → d.spiAddressComplete = false
  /-- R173: the read data phase comes after the dummy byte, which comes after the address. -/
  readComplete : d.protocolState = .spiHsReadData → d.spiAddressComplete = true
  /-- R3: `acpi_space` is 256 bytes in canonical form. Its type carries it. -/
  acpiSpace : Memory.wf d.acpiSpace.cells = true
  /-- R3: so is `superio_registers`. -/
  superioRegisters : Memory.wf d.superioRegisters.cells = true

/-- The invariant of the machine: the device is consistent with its configuration. -/
def State.Inv (s : State) : Prop := s.dev.Consistent s.cfg

/-- `n` steps of the machine (Host.Core.run). -/
abbrev runs (n : Nat) (s : State) : Result := Host.Core.run Sys2Proof.core n s

/-- A safe run of `n` steps: it ends in a state, in no fault and in no refusal (60_exceptions.md R190). -/
def State.Safe (n : Nat) (s : State) : Prop := ∃ t, runs n s = .next t

/-- Internal emulation performs the transactions: the machine has started and the bypass is inactive (30_encoding.md R61,
step 2). -/
abbrev State.Emulating (s : State) : Prop := s.bus.started = true ∧ s.dev.bypassActive = false

/-- Internal emulation reads a transaction as an instruction in a state: its request bytes decode to it. -/
def State.decodesAs (s : State) (t : Transaction) (i : Instr) : Prop := decode s.decodeContext t.request.bytes = .ok i

/-- The state after the transaction at the head of the queue has completed: the device it left, the byte it returned (none
for a write), everything else as before (30_encoding.md R60). -/
def State.done (s : State) (d : Device) (r : Option Byte) : State :=
  { s with dev := d, bus := { s.bus with pending := s.bus.pending.tail, result := r } }

end Sys2Proof.Machine
end

