-- ==== Sys2Proof/Certificates/Slice0/Obligations.lean ====
section
/-! DEFINITION. The statements for the provers: what the numbered rules of spec/ say the engine does. Each holds for every
configuration, since the configuration is a field of the state (log 2). A statement that names `done` gives the whole next
state: every register, flag, special register and byte of memory it does not write out is unchanged. -/

open Sys2Proof Sys2Proof.Machine

/-! Encoding. -/

/-- Every well-formed instruction, in every context that selects its row, is what the decoder reads from its encoding. -/
def Obligations.DecodeEncodeRoundTrip : Prop :=
  ∀ (k : DecodeContext) (i : Instr), k.cfg.WellFormed → i.wellFormed k.cfg = true → i.selectedBy k = true →
    decode k (encode k.cfg i) = .ok i

/-- Every byte string that decodes is the encoding of what it decodes to, which is well formed and selected: no encoding
falls through to a neighbour. -/
def Obligations.EncodeDecodeRoundTrip : Prop :=
  ∀ (k : DecodeContext) (bytes : List Byte) (i : Instr), k.cfg.WellFormed → decode k bytes = .ok i →
    encode k.cfg i = bytes ∧ i.wellFormed k.cfg = true ∧ i.selectedBy k = true

/-- No encoding traps and exactly one row applies to any internally emulated transaction: the decoders are functions of the
transaction and of `protocol_state` (30_encoding.md section 5, 60_exceptions.md section 3). -/
def Obligations.ExactlyOneRowApplies : Prop :=
  ∀ (k : DecodeContext) (t : Transaction), k.cfg.WellFormed → k.bypassActive = false →
    ∃! i : Instr, i.wellFormed k.cfg = true ∧ i.selectedBy k = true ∧ i.transaction? k.cfg = some t

/-- A few words written out from the spec's encodings, under the reference configuration. -/
def Obligations.SampleWordsDecode : Prop :=
  let at_ (p : ProtocolState) : DecodeContext := { cfg := Config.reference, bypassActive := false, protocolState := p }
  decode (at_ .idle) [0x02, 0x2E, 0x20] = .ok (.sioWaddr 0x20) ∧
  decode (at_ .idle) [0x01, 0x62, 0x00] = .ok .ecRdata ∧
  decode (at_ .idle) [0x02, 0x66, 0x92] = .ok .ecGetProject ∧
  decode (at_ .spiFollow) [0x02, 0x66, 0x02] = .ok .spiCommand ∧
  decode (at_ .spiCommand) [0x02, 0x62, 0x9F] = .ok .flRdid ∧
  decode (at_ .setAcpiIndex) [0x02, 0x62, 0xB1] = .ok (.acpiSetValue 0xB1) ∧
  decode (at_ .idle) [0xB1, 0x20, 0x02, 0x00, 0x11, 0x22] = .ok (.acpiRecB1 0x20 0x02 0x00 0x11 0x22) ∧
  decode { at_ .idle with bypassActive := true } [0x01, 0x66, 0x00] = .ok (.bypRead 0x66)

/-! The step. -/

/-- A step runs the decoded instruction: with the bypass inactive, the transaction at the head of the queue, read as its
request bytes, is the instruction the step executes, and the step adds nothing. -/
def Obligations.StepRunsDecodedInstruction : Prop :=
  ∀ (s : State) (t : Transaction) (rest : List HostAccess) (i : Instr), s.Emulating →
    s.bus.pending = t.access :: rest → decode s.decodeContext t.request.bytes = .ok i → step s = exec i s

/-- A transaction the peer answers ends there: a read returns the reply, a write returns nothing (the discarding of its
reply is decision D18), the request is on the wire, and no state of the device changes. -/
def Obligations.BypassReplyCompletesTransaction : Prop :=
  ∀ (s : State) (t : Transaction) (rest : List HostAccess) (v : Byte) (answers : List PeerAnswer),
    s.bus.started = true → s.dev.bypassActive = true → s.bus.pending = t.access :: rest →
    s.bus.peerAnswers = .reply v :: answers →
    step s = .next { s with bus := { s.bus with
      pending := rest
      result := match t with | .read _ => some v | .write _ _ => none
      peerAnswers := answers
      wire := s.bus.wire ++ [t.request] } }

/-- A transport failure ends the bypass for good: the transaction during which it happened is performed as if the bypass had
never been active, the step answers, and no later transaction of any run calls the peer again. The model's own choices in it:
the failure is one answer of the peer, used up (log 3); the transaction is performed in the same step (log 4); the request
that failed is listed on the wire (log 6). -/
def Obligations.BypassFailureIsPermanent : Prop :=
  ∀ (s : State) (t : Transaction) (rest : List HostAccess) (answers : List PeerAnswer),
    s.bus.started = true → s.dev.bypassActive = true → s.bus.pending = t.access :: rest →
    s.bus.peerAnswers = .failure :: answers →
    step s = step { s with
      dev := { s.dev with bypassActive := false }
      bus := { s.bus with peerAnswers := answers, wire := s.bus.wire ++ [t.request] } } ∧
    ∃ u, step s = .next u ∧ u.dev.bypassActive = false ∧ u.bus.pending = rest ∧ u.bus.peerAnswers = answers ∧
      u.bus.wire = s.bus.wire ++ [t.request] ∧
      ∀ (n : Nat) (w : State), runs n u = .next w →
        w.dev.bypassActive = false ∧ w.bus.peerAnswers = answers ∧ w.bus.wire = u.bus.wire

/-- With no transaction waiting a step changes nothing (20_memory.md R53 (d); that the model's step is then the identity is
log 8). -/
def Obligations.IdleStepChangesNothing : Prop :=
  ∀ s : State, s.bus.started = true → s.bus.pending = [] → step s = .next s

/-- An access that is not one byte wide is refused at the boundary, whatever the state (decision D20, log 9). -/
def Obligations.WideAccessRefused : Prop :=
  ∀ (s : State) (port : Byte) (rest : List HostAccess), s.bus.started = true →
    (∀ width : Nat, width ≠ 1 → s.bus.pending = .read port width :: rest → step s = .refused .accessNotOneByte) ∧
    (∀ data : List Byte, data.length ≠ 1 → s.bus.pending = .write port data :: rest →
      step s = .refused .accessNotOneByte)

/-- No transaction faults and none is refused: with the bypass inactive any number of queued transactions completes, one a
step. -/
def Obligations.InternalRunsAreSafe : Prop :=
  ∀ (n : Nat) (s : State) (ts : List Transaction), s.Emulating → s.bus.pending = ts.map Transaction.access →
    ∃ u, runs n s = .next u ∧ u.bus.pending = (ts.drop n).map Transaction.access ∧ u.Emulating

/-! Reset and invariants. -/

/-- Every element's value after reset, for every configuration. The presets, `Idle` and the bypass are the source's; every
zero and the counter's 3 are the spec's own decisions D3, D4, D6, D7, D10, D28 (log 13, 14). -/
def Obligations.ResetValues : Prop :=
  ∀ c : Config, c.WellFormed →
    let d := (State.resetWith c).dev
    d.protocolState = .idle ∧ d.bypassActive = c.bypassInit ∧
    (∀ j : Byte, d.acpiSpace.read j =
      if j = 0x10 then c.acpiInit10 else if j = 0xE5 then c.acpiInitE5 else 0x00) ∧
    (∀ j : Byte, d.superioRegisters.read j =
      if j = c.sioIdIndexA then c.sioIdValueA else if j = c.sioIdIndexB then c.sioIdValueB else 0x00) ∧
    d.commandRegister = 0x00 ∧ d.dataRegister = 0x00 ∧ d.acpiIndex = 0x00 ∧ d.projectCursor = 0 ∧ d.versionCursor = 0 ∧
    d.superioAddress = 0x00 ∧ d.spiStatus = c.spiStatusReset ∧ d.spiAddressBytes = #v[0x00, 0x00, 0x00, 0x00] ∧
    d.spiAddressRemaining = 3 ∧ d.spiAddressComplete = false ∧ d.spiAddress = 0x00000000 ∧ d.spiJedecCursor = 0

/-- The invariants hold right after reset, for every configuration; the machine's reset state is one of these. -/
def Obligations.ResetMeetsInvariants : Prop :=
  (∀ c : Config, (State.resetWith c).Inv) ∧ State.reset = State.resetWith Config.reference

/-- Every step keeps the invariants of 10_state.md section 9: the cursors stay in their strings and in the ID, the counter
and the completion bit agree, `OBF = 0` means nothing is staged, `command_register` is `0x00` or `0x01`, a complete address
is the one latched, both memories are in canonical form (their type carries it). From every state that meets them, reached or
not. -/
def Obligations.StepKeepsInvariants : Prop :=
  ∀ s t : State, s.Inv → step s = .next t → t.Inv

/-- The JEDEC cursor is at most 4 after reset and never passes 4: it saturates. -/
def Obligations.JedecCursorSaturates : Prop :=
  (∀ c : Config, (State.resetWith c).dev.spiJedecCursor ≤ 4) ∧
  ∀ s t : State, s.dev.spiJedecCursor ≤ 4 → step s = .next t → t.dev.spiJedecCursor ≤ 4

/-- `bypass_active` never changes from false to true. -/
def Obligations.BypassNeverReactivated : Prop :=
  ∀ s t : State, s.bus.started = true → step s = .next t → t.dev.bypassActive = true → s.dev.bypassActive = true

/-- While the bypass answers, the device's own state stays exactly as it was (after reset: as reset left it). -/
def Obligations.DeviceUntouchedWhileBypassed : Prop :=
  ∀ (n : Nat) (s t : State), s.bus.started = true → runs n s = .next t → t.dev.bypassActive = true → t.dev = s.dev

/-- The step before the first transaction is the handshake, and it leaves the reset state (the model's rendering of the
handshake as a step is log 5). -/
def Obligations.PowerOnHandshakeReachesReset : Prop :=
  ∀ c : Config, step (State.powerOn c) = .next (State.resetWith c)

/-- After the start no run sends `Init` again: every request it adds to the wire is a `Read` or a `Write`. -/
def Obligations.HandshakeNeverRepeated : Prop :=
  ∀ (n : Nat) (s t : State), s.bus.started = true → runs n s = .next t →
    t.bus.started = true ∧ ∃ sent : List PeerRequest, t.bus.wire = s.bus.wire ++ sent ∧
      ∀ r ∈ sent, r.kind = 0x01 ∨ r.kind = 0x02

/-- No step writes the configuration: the strings, the JEDEC ID and the port numbers are read-only. -/
def Obligations.ConfigurationNeverWritten : Prop :=
  ∀ s t : State, step s = .next t → t.cfg = s.cfg

/-! Bypass requests. -/

/-- What one request to the peer does. Inactive: nothing. A reply: a read returns it, a write discards it (decision D18),
no state of the device changes. A failure: the channel is absent and the transaction still to be performed (log 4). No
answer: the machine stops (the model's stop for a transaction that never completes, log 3). -/
def Obligations.BypassRequestEffects : Prop :=
  ∀ (s : State) (port value : Byte),
    (s.dev.bypassActive = false → exec (.bypRead port) s = .next s ∧ exec (.bypWrite port value) s = .next s) ∧
    (s.dev.bypassActive = true → ∀ (v : Byte) (answers : List PeerAnswer), s.bus.peerAnswers = .reply v :: answers →
      exec (.bypRead port) s = .next { s with bus := { s.bus with
        pending := s.bus.pending.tail, result := some v, peerAnswers := answers
        wire := s.bus.wire ++ [{ kind := 0x01, address := port, value := 0x00 }] } } ∧
      exec (.bypWrite port value) s = .next { s with bus := { s.bus with
        pending := s.bus.pending.tail, result := none, peerAnswers := answers
        wire := s.bus.wire ++ [{ kind := 0x02, address := port, value := value }] } }) ∧
    (s.dev.bypassActive = true → ∀ answers : List PeerAnswer, s.bus.peerAnswers = .failure :: answers →
      exec (.bypRead port) s = .next { s with
        dev := { s.dev with bypassActive := false }
        bus := { s.bus with
          peerAnswers := answers, wire := s.bus.wire ++ [{ kind := 0x01, address := port, value := 0x00 }] } } ∧
      exec (.bypWrite port value) s = .next { s with
        dev := { s.dev with bypassActive := false }
        bus := { s.bus with
          peerAnswers := answers, wire := s.bus.wire ++ [{ kind := 0x02, address := port, value := value }] } }) ∧
    (s.dev.bypassActive = true → s.bus.peerAnswers = [] →
      exec (.bypRead port) s = .fault .peerNeverAnswers ∧ exec (.bypWrite port value) s = .fault .peerNeverAnswers)

/-- The handshake sets `bypass_active` to its outcome `BYPASS_INIT` and changes nothing else of the device; the request of a
handshake that succeeded is `00 00 00` (decision D18, log 5). The last clause, that no request is listed where `BYPASS_INIT`
is false, is the model's choice (log 6). -/
def Obligations.HandshakeSetsBypass : Prop :=
  ∀ s : State, ∃ t, exec .bypInit s = .next t ∧ t.cfg = s.cfg ∧
    t.dev = { s.dev with bypassActive := s.cfg.bypassInit } ∧ t.bus.started = true ∧
    t.bus.pending = s.bus.pending ∧ t.bus.result = s.bus.result ∧ t.bus.peerAnswers = s.bus.peerAnswers ∧
    (s.cfg.bypassInit = true → t.bus.wire.map PeerRequest.bytes = s.bus.wire.map PeerRequest.bytes ++ [[0x00, 0x00, 0x00]]) ∧
    (s.cfg.bypassInit = false → t.bus.wire = s.bus.wire)

/-! SuperIO. -/

/-- The address port latches and returns the selector. -/
def Obligations.SuperIoAddressPort : Prop :=
  ∀ (s : State) (v : Byte),
    (s.cfg.WellFormed → s.Emulating →
      s.decodesAs (.write s.cfg.portSioAddr v) (.sioWaddr v) ∧ s.decodesAs (.read s.cfg.portSioAddr) .sioRaddr) ∧
    exec (.sioWaddr v) s = .next (s.done { s.dev with superioAddress := v } none) ∧
    exec .sioRaddr s = .next (s.done s.dev (some s.dev.superioAddress))

/-- The data port stores at and returns the selected register; the selector does not move and no other register changes. -/
def Obligations.SuperIoDataPort : Prop :=
  ∀ (s : State) (v : Byte),
    (s.cfg.WellFormed → s.Emulating →
      s.decodesAs (.write s.cfg.portSioData v) (.sioWdata v) ∧ s.decodesAs (.read s.cfg.portSioData) .sioRdata) ∧
    (∃ m : Memory, exec (.sioWdata v) s = .next (s.done { s.dev with superioRegisters := m } none) ∧
      ∀ j : Byte, m.read j = if j = s.dev.superioAddress then v else s.dev.superioRegisters.read j) ∧
    exec .sioRdata s = .next (s.done s.dev (some (s.dev.superioRegisters.read s.dev.superioAddress)))

/-- For all `(a, v)`: write `a` to the address port, `v` to the data port, `a` again, read the data port: it returns `v`,
and nothing but the SuperIO file has changed. -/
def Obligations.SuperIoRoundTrip : Prop :=
  ∀ (s : State) (a v : Byte) (rest : List HostAccess), s.cfg.WellFormed → s.Emulating →
    s.bus.pending = [Transaction.write s.cfg.portSioAddr a, .write s.cfg.portSioData v, .write s.cfg.portSioAddr a,
      .read s.cfg.portSioData].map Transaction.access ++ rest →
    ∃ t, runs 4 s = .next t ∧ t.bus.result = some v ∧ t.bus.pending = rest ∧ t.dev.superioAddress = a ∧
      t.dev = { s.dev with superioAddress := a, superioRegisters := t.dev.superioRegisters }

/-- The SuperIO file is independent of the EC protocol: a transaction on another port neither reads nor writes it, and a
transaction on its two ports neither reads nor writes anything else of the device. -/
def Obligations.SuperIoIndependent : Prop :=
  ∀ (s u : State) (t : Transaction) (rest : List HostAccess), s.Emulating → s.bus.pending = t.access :: rest →
    step s = .next u →
    (t.port ≠ s.cfg.portSioAddr → t.port ≠ s.cfg.portSioData → ∀ (a : Byte) (m : Memory),
      step { s with dev := { s.dev with superioAddress := a, superioRegisters := m } } =
        .next { u with dev := { u.dev with superioAddress := a, superioRegisters := m } }) ∧
    (t.port = s.cfg.portSioAddr ∨ t.port = s.cfg.portSioData → ∀ d : Device, d.bypassActive = false →
      step { s with dev := { d with
          superioAddress := s.dev.superioAddress, superioRegisters := s.dev.superioRegisters } } =
        .next { u with dev := { d with
          superioAddress := u.dev.superioAddress, superioRegisters := u.dev.superioRegisters } })

/-- A transaction on a port with no meaning: a read returns `0x00`, a write returns nothing, no state changes (the write's
half is decision D19). -/
def Obligations.UnsupportedPortEffect : Prop :=
  ∀ (s : State) (port v : Byte),
    exec (.portUnsupported (.read port)) s = .next (s.done s.dev (some 0x00)) ∧
    exec (.portUnsupported (.write port v)) s = .next (s.done s.dev none)

/-! ACPI shadow memory. -/

/-- The index to read: the byte there is staged, over whatever is staged (decision D13), and the state returns to `Idle`. -/
def Obligations.AcpiGetIndexStages : Prop :=
  ∀ (s : State) (v : Byte), exec (.acpiGetIndex v) s = .next (s.done { s.dev with
    dataRegister := s.dev.acpiSpace.read v
    commandRegister := s.dev.commandRegister ||| 0x01
    protocolState := .idle } none)

/-- The index to write is captured (in a register of its own: decision D5) and the value awaited. -/
def Obligations.AcpiSetIndexCaptures : Prop :=
  ∀ (s : State) (v : Byte), exec (.acpiSetIndex v) s =
    .next (s.done { s.dev with acpiIndex := v, protocolState := .setAcpiIndex } none)

/-- The value write: the byte at the captured index becomes `v`; at index `0xF8` the record is then interpreted (the order
is decision D30), so with `v = 0xB1` and `d3 = 0x00` the response replaces `d1`; every other byte is unchanged. -/
def Obligations.AcpiSetValueStores : Prop :=
  ∀ (s : State) (v : Byte),
    ∃ m : Memory, exec (.acpiSetValue v) s = .next (s.done { s.dev with acpiSpace := m, protocolState := .idle } none) ∧
      (s.dev.acpiIndex ≠ 0xF8 →
        ∀ j : Byte, m.read j = if j = s.dev.acpiIndex then v else s.dev.acpiSpace.read j) ∧
      (s.dev.acpiIndex = 0xF8 → ∀ j : Byte, m.read j =
        if j = 0xF8 then v
        else if j = 0xF9 ∧ v = 0xB1 ∧ s.dev.acpiSpace.read 0xFB = 0x00 then
          (if s.dev.acpiSpace.read 0xF9 ++ s.dev.acpiSpace.read 0xFA = 0x2002#16 then 0x06 else 0x00)
        else s.dev.acpiSpace.read j)

/-- The command record `B1 d1 d2 d3 d4 d5`: with `d3 = 0x00` the response to the address `d1:d2` replaces `d1`, `0x06` for
`0x2002` and `0x00` for every other; the record is written back; no other byte changes and no transaction ends. -/
def Obligations.CommandRecordAnswers : Prop :=
  ∀ (s : State) (d1 d2 d3 d4 d5 : Byte),
    ∃ m : Memory, exec (.acpiRecB1 d1 d2 d3 d4 d5) s = .next { s with dev := { s.dev with acpiSpace := m } } ∧
      ∀ j : Byte, m.read j =
        if j = 0xF8 then 0xB1
        else if j = 0xF9 then
          (if d3 = 0x00 then (if d1 ++ d2 = 0x2002#16 then 0x06 else 0x00) else d1)
        else if j = 0xFA then d2 else if j = 0xFB then d3 else if j = 0xFC then d4 else if j = 0xFD then d5
        else s.dev.acpiSpace.read j

/-- The record interpreter runs inside the value write to `0xF8`: the store, then the record decoded from the window as it
stands, then the return to `Idle`; a window that decodes to no record is left alone. -/
def Obligations.RecordRunsInsideValueWrite : Prop :=
  ∀ (s : State) (v : Byte), s.dev.acpiIndex = 0xF8 →
    let stored : State := { s with dev := { s.dev with acpiSpace := s.dev.acpiSpace.write 0xF8 v } }
    let window := ([0xF8, 0xF9, 0xFA, 0xFB, 0xFC, 0xFD] : List Byte).map stored.dev.acpiSpace.read
    (∀ i : Instr, decode s.decodeContext window = .ok i →
      ∃ u, exec i stored = .next u ∧
        exec (.acpiSetValue v) s = .next (u.done { u.dev with protocolState := .idle } none)) ∧
    (∀ e : DecodeError, decode s.decodeContext window = .error e →
      exec (.acpiSetValue v) s = .next (stored.done { stored.dev with protocolState := .idle } none))

/-- Nothing but a value write changes a byte of `acpi_space`: a step that changes one ran a data-port write in
`SetAcpiIndex`. -/
def Obligations.AcpiSpaceWriters : Prop :=
  ∀ (s u : State) (j : Byte), step s = .next u → u.dev.acpiSpace.read j ≠ s.dev.acpiSpace.read j →
    s.dev.protocolState = .setAcpiIndex ∧
      ∃ v rest, s.bus.pending = (Transaction.write s.cfg.portEcData v).access :: rest

/-- A byte written through EC command `0x81` is the byte read through `0x80`, at every index (index `0xF8` included). Two
decisions carry it: at `0xF8` `cmd` is stored and not cleared (D30, log 28), and the byte read replaces one staged before
(D13, log 21). -/
def Obligations.AcpiReadsBackWrite : Prop :=
  ∀ (s : State) (i v : Byte) (rest : List HostAccess), s.cfg.WellFormed → s.Emulating →
    s.dev.protocolState.isSpi = false →
    s.bus.pending = [Transaction.write s.cfg.portEcCmd 0x81, .write s.cfg.portEcData i, .write s.cfg.portEcData v,
      .write s.cfg.portEcCmd 0x80, .write s.cfg.portEcData i, .read s.cfg.portEcData].map Transaction.access ++ rest →
    ∃ t, runs 6 s = .next t ∧ t.bus.result = some v ∧ t.dev.protocolState = .idle ∧ t.bus.pending = rest

/-! The EC ports. -/

/-- The command-port read returns `command_register` and changes nothing; under the invariants that is `0x01` when a byte is
staged and `0x00` otherwise. -/
def Obligations.CommandPortRead : Prop :=
  ∀ s : State, (s.cfg.WellFormed → s.Emulating → s.decodesAs (.read s.cfg.portEcCmd) .ecRstatus) ∧
    exec .ecRstatus s = .next (s.done s.dev (some s.dev.commandRegister)) ∧
    (s.Inv → s.dev.commandRegister = if obf s.dev.commandRegister then 0x01 else 0x00)

/-- The data-port read where no string character is due: it returns the staged byte, clears it to `0x00` (decision D4) and
clears `OBF`; under the invariants, with nothing staged, it returns `0x00` and changes nothing. -/
def Obligations.DataPortReadReturnsStaged : Prop :=
  ∀ s : State, (obf s.dev.commandRegister = true ∨
      (s.dev.protocolState ≠ .getProject ∧ s.dev.protocolState ≠ .getVersion)) →
    exec .ecRdata s = .next (s.done { s.dev with
      dataRegister := 0x00, commandRegister := s.dev.commandRegister &&& 0xFE } (some s.dev.dataRegister)) ∧
    (s.Inv → obf s.dev.commandRegister = false → exec .ecRdata s = .next (s.done s.dev (some 0x00)))

/-- The data-port read where a string character is due: inside the string it returns the next character and moves its own
cursor; at the end it returns `$` (`0x24`, decision D26) and the state becomes `Idle`, the cursor staying. -/
def Obligations.StringCharacterRead : Prop :=
  ∀ s : State, s.Inv → obf s.dev.commandRegister = false →
    (s.dev.protocolState = .getProject →
      (∀ h : s.dev.projectCursor < s.cfg.projectString.chars.length, exec .ecRdata s =
        .next (s.done { s.dev with projectCursor := s.dev.projectCursor + 1 }
          (some s.cfg.projectString.chars[s.dev.projectCursor]))) ∧
      (s.dev.projectCursor = s.cfg.projectString.chars.length →
        exec .ecRdata s = .next (s.done { s.dev with protocolState := .idle } (some 0x24)))) ∧
    (s.dev.protocolState = .getVersion →
      (∀ h : s.dev.versionCursor < s.cfg.versionString.chars.length, exec .ecRdata s =
        .next (s.done { s.dev with versionCursor := s.dev.versionCursor + 1 }
          (some s.cfg.versionString.chars[s.dev.versionCursor]))) ∧
      (s.dev.versionCursor = s.cfg.versionString.chars.length →
        exec .ecRdata s = .next (s.done { s.dev with protocolState := .idle } (some 0x24))))

/-- String readout, for every string: after the command (`0x92` project, `0x93` version) the reads return the characters in
order and then `$` (`0x24`, decision D26), and the state returns to `Idle` exactly at the terminator. -/
def Obligations.StringReadout : Prop :=
  ∀ (version : Bool) (s : State),
    let chars := (if version then s.cfg.versionString else s.cfg.projectString).chars
    s.cfg.WellFormed → s.Emulating → s.dev.protocolState.isSpi = false → obf s.dev.commandRegister = false →
    s.bus.pending = (Transaction.write s.cfg.portEcCmd (if version then 0x93 else 0x92)).access ::
      List.replicate (chars.length + 1) (Transaction.read s.cfg.portEcData).access →
    ∀ k, k ≤ chars.length → ∃ t, runs (k + 2) s = .next t ∧ t.bus.result = (chars ++ [0x24])[k]? ∧
      t.dev.protocolState = if k = chars.length then .idle else if version then .getVersion else .getProject

/-- The EC commands whose whole effect is the next state: `0x80`, `0x81`, `0x01`, `0xDE`, `0xF0`. That a staged byte stays
staged across them is decision D31 (log 21). -/
def Obligations.EcCommandsEnterStates : Prop :=
  ∀ s : State,
    exec .ecGetAcpi s = .next (s.done { s.dev with protocolState := .getAcpi } none) ∧
    exec .ecSetAcpi s = .next (s.done { s.dev with protocolState := .setAcpi } none) ∧
    exec .ecSpiFollow s = .next (s.done { s.dev with protocolState := .spiFollow } none) ∧
    exec .ecVendorDe s = .next (s.done { s.dev with protocolState := .idle } none) ∧
    exec .ecVendorF0 s = .next (s.done { s.dev with protocolState := .idle } none)

/-- The string commands reset their own cursor and nothing else; a staged byte stays staged by decision D31 (log 21). -/
def Obligations.StringCommandsRestart : Prop :=
  ∀ s : State,
    exec .ecGetProject s = .next (s.done { s.dev with projectCursor := 0, protocolState := .getProject } none) ∧
    exec .ecGetVersion s = .next (s.done { s.dev with versionCursor := 0, protocolState := .getVersion } none)

/-- The vendor query stages `0x33`, over whatever is staged (decision D13, log 21), and returns to `Idle`. -/
def Obligations.VendorQueryStages : Prop :=
  ∀ s : State, exec .ecVendorDc s = .next (s.done { s.dev with
    dataRegister := 0x33, commandRegister := s.dev.commandRegister ||| 0x01, protocolState := .idle } none)

/-- Every EC command byte but the eight recognised ones decodes as unrecognised and changes no state. -/
def Obligations.UnrecognisedEcCommandIgnored : Prop :=
  ∀ (s : State) (c : Byte), c ∉ ([0x80, 0x81, 0x92, 0x93, 0x01, 0xDC, 0xDE, 0xF0] : List Byte) →
    (s.cfg.WellFormed → s.Emulating → s.dev.protocolState.isSpi = false →
      s.decodesAs (.write s.cfg.portEcCmd c) (.ecUnrecognised c)) ∧
    exec (.ecUnrecognised c) s = .next (s.done s.dev none)

/-- Unrecognised control bytes and flash opcodes, and data-port writes no state consumes, change no state (decision D12;
90_conflicts.md C5), the AAI data phase among them. -/
def Obligations.IgnoredBytesChangeNothing : Prop :=
  ∀ (s : State) (v : Byte),
    exec (.spiUnrecognised v) s = .next (s.done s.dev none) ∧
    exec (.flUnrecognised v) s = .next (s.done s.dev none) ∧
    exec (.flAaiData v) s = .next (s.done s.dev none) ∧
    exec (.ecDataIgnored v) s = .next (s.done s.dev none) ∧
    exec (.flDataIgnored v) s = .next (s.done s.dev none)

/-- Only a data-port read clears `OBF`: a step after which a staged byte is no longer announced ran one (decision D31). -/
def Obligations.ReadyFlagClearedOnlyByDataRead : Prop :=
  ∀ s u : State, step s = .next u → obf s.dev.commandRegister = true → obf u.dev.commandRegister = false →
    ∃ rest, s.bus.pending = (Transaction.read s.cfg.portEcData).access :: rest

/-- Reads of every port but the EC data port change no state of the device. -/
def Obligations.PlainReadsChangeNothing : Prop :=
  ∀ (s : State) (port : Byte) (rest : List HostAccess), s.Emulating → port ≠ s.cfg.portEcData →
    s.bus.pending = (Transaction.read port).access :: rest →
    ∃ u r, step s = .next u ∧ u.dev = s.dev ∧ u.bus.result = some r ∧ u.bus.pending = rest

/-- Only a write to an EC port, or a data-port read that ends a string, changes `protocol_state`. -/
def Obligations.ProtocolStateChangers : Prop :=
  ∀ s u : State, step s = .next u → u.dev.protocolState ≠ s.dev.protocolState →
    (∃ v rest, s.bus.pending = (Transaction.write s.cfg.portEcCmd v).access :: rest) ∨
    (∃ v rest, s.bus.pending = (Transaction.write s.cfg.portEcData v).access :: rest) ∨
    (u.dev.protocolState = .idle ∧ obf s.dev.commandRegister = false ∧
      (s.dev.protocolState = .getProject ∨ s.dev.protocolState = .getVersion) ∧
      ∃ rest, s.bus.pending = (Transaction.read s.cfg.portEcData).access :: rest)

/-- `WC 0x05`, `WC 0xDE` reaches `Idle` from every state, leaving the rest of the device as it was. From the SPI states this
rests on decision D11 (log 24); that a staged byte stays is decision D31 (log 21). -/
def Obligations.RecoveryReachesIdle : Prop :=
  ∀ (s : State) (rest : List HostAccess), s.cfg.WellFormed → s.Emulating →
    s.bus.pending = [Transaction.write s.cfg.portEcCmd 0x05, .write s.cfg.portEcCmd 0xDE].map Transaction.access ++ rest →
    ∃ t, runs 2 s = .next t ∧ t.dev = { s.dev with protocolState := .idle } ∧ t.bus.pending = rest

/-! The SPI control layer. -/

/-- The control bytes whose whole effect is the next state: `0x01`, `0x02`, `0x05`. That they are decoded in every one of
the twelve SPI states is decision D11 (log 24). -/
def Obligations.ControlBytesEnterStates : Prop :=
  ∀ s : State,
    (s.cfg.WellFormed → s.Emulating → s.dev.protocolState.isSpi = true →
      s.decodesAs (.write s.cfg.portEcCmd 0x01) .spiFollow ∧ s.decodesAs (.write s.cfg.portEcCmd 0x02) .spiCommand ∧
      s.decodesAs (.write s.cfg.portEcCmd 0x05) .spiUnfollow) ∧
    exec .spiFollow s = .next (s.done { s.dev with protocolState := .spiFollow } none) ∧
    exec .spiCommand s = .next (s.done { s.dev with protocolState := .spiCommand } none) ∧
    exec .spiUnfollow s = .next (s.done { s.dev with protocolState := .idle } none)

/-- The write phase opens the status data phase or an address phase with a fresh accumulator, and is a no-op elsewhere (that
the accumulator's bytes are cleared is decision D16). -/
def Obligations.WritePhaseOpens : Prop :=
  ∀ s : State,
    (s.dev.protocolState = .spiWriteStatus →
      exec .spiWritePhase s = .next (s.done { s.dev with protocolState := .spiWriteStatusData } none)) ∧
    (s.dev.protocolState = .spiSectorErase → exec .spiWritePhase s = .next (s.done { s.dev with
      spiAddressBytes := #v[0x00, 0x00, 0x00, 0x00], spiAddressRemaining := 3, spiAddressComplete := false
      protocolState := .spiSectorEraseAddress } none)) ∧
    (s.dev.protocolState = .spiHsRead → exec .spiWritePhase s = .next (s.done { s.dev with
      spiAddressBytes := #v[0x00, 0x00, 0x00, 0x00], spiAddressRemaining := 3, spiAddressComplete := false
      protocolState := .spiHsReadAddress } none)) ∧
    (s.dev.protocolState ∉ ([.spiWriteStatus, .spiSectorErase, .spiHsRead] : List ProtocolState) →
      exec .spiWritePhase s = .next (s.done s.dev none))

/-- The read phase stages the status, the next ID byte while any remains (the cursor moving at the staging, decision D29) or
the filler (whatever the address, decision D27), over whatever is staged (decision D13); it is a no-op elsewhere, and never
changes `protocol_state`. -/
def Obligations.ReadPhaseStages : Prop :=
  ∀ s : State,
    (s.dev.protocolState = .spiReadStatus → exec .spiReadPhase s = .next (s.done { s.dev with
      dataRegister := s.dev.spiStatus, commandRegister := s.dev.commandRegister ||| 0x01 } none)) ∧
    (s.dev.protocolState = .spiReadJedec →
      (∀ h : s.dev.spiJedecCursor < 4, exec .spiReadPhase s = .next (s.done { s.dev with
        dataRegister := s.cfg.jedecId[s.dev.spiJedecCursor], commandRegister := s.dev.commandRegister ||| 0x01
        spiJedecCursor := s.dev.spiJedecCursor + 1 } none)) ∧
      (4 ≤ s.dev.spiJedecCursor → exec .spiReadPhase s = .next (s.done s.dev none))) ∧
    (s.dev.protocolState = .spiHsReadData → exec .spiReadPhase s = .next (s.done { s.dev with
      dataRegister := 0xFF, commandRegister := s.dev.commandRegister ||| 0x01 } none)) ∧
    (s.dev.protocolState ∉ ([.spiReadStatus, .spiReadJedec, .spiHsReadData] : List ProtocolState) →
      exec .spiReadPhase s = .next (s.done s.dev none))

/-- JEDEC ID readout: after the opcode, four pairs of read phase and data-port read return the four ID bytes in order; a fifth
stages nothing further, so its read returns `0x00` (decision D4), the cursor staying at 4. The cursor moves at the staging
(decision D29), and the first ID byte replaces a byte staged before (decision D13). -/
def Obligations.JedecReadout : Prop :=
  ∀ s : State, s.cfg.WellFormed → s.Emulating → s.dev.protocolState = .spiCommand →
    s.bus.pending = (Transaction.write s.cfg.portEcData 0x9F).access :: (List.replicate 5
      [(Transaction.write s.cfg.portEcCmd 0x04).access, (Transaction.read s.cfg.portEcData).access]).flatten →
    (∀ (k : Nat) (h : k < 4), ∃ t, runs (2 * k + 3) s = .next t ∧ t.bus.result = some s.cfg.jedecId[k]) ∧
    ∃ t, runs 11 s = .next t ∧ t.bus.result = some 0x00 ∧ t.dev.spiJedecCursor = 4 ∧
      t.dev.protocolState = .spiReadJedec

/-! The flash opcodes. -/

/-- The opcodes whose whole effect is the next state: `0x01`, `0x05`, `0xAD`; and the state `SpiAaiProgram`, in which data
bytes and the two phases change nothing, and which only the control bytes `0x01`, `0x02`, `0x05` leave. -/
def Obligations.FlashOpcodesEnterStates : Prop :=
  (∀ s : State,
    (s.cfg.WellFormed → s.Emulating → s.dev.protocolState = .spiCommand →
      s.decodesAs (.write s.cfg.portEcData 0x01) .flWrsr ∧ s.decodesAs (.write s.cfg.portEcData 0x05) .flRdsr ∧
      s.decodesAs (.write s.cfg.portEcData 0xAD) .flAai) ∧
    exec .flWrsr s = .next (s.done { s.dev with protocolState := .spiWriteStatus } none) ∧
    exec .flRdsr s = .next (s.done { s.dev with protocolState := .spiReadStatus } none) ∧
    exec .flAai s = .next (s.done { s.dev with protocolState := .spiAaiProgram } none) ∧
    (s.dev.protocolState = .spiAaiProgram →
      (∀ v : Byte, (s.cfg.WellFormed → s.Emulating → s.decodesAs (.write s.cfg.portEcData v) (.flAaiData v)) ∧
        exec (.flAaiData v) s = .next (s.done s.dev none)) ∧
      exec .spiWritePhase s = .next (s.done s.dev none) ∧ exec .spiReadPhase s = .next (s.done s.dev none))) ∧
  ∀ s u : State, s.dev.protocolState = .spiAaiProgram → step s = .next u → u.dev.protocolState ≠ .spiAaiProgram →
    ∃ v ∈ ([0x01, 0x02, 0x05] : List Byte), ∃ rest, s.bus.pending = (Transaction.write s.cfg.portEcCmd v).access :: rest

/-- The write-enable latch: `0x06` sets bit 1 of `spi_status`, `0x04` clears it, the other seven bits are unchanged, and the
state returns to `SpiFollow`. -/
def Obligations.WriteEnableLatch : Prop :=
  ∀ s : State,
    (s.cfg.WellFormed → s.Emulating → s.dev.protocolState = .spiCommand →
      s.decodesAs (.write s.cfg.portEcData 0x06) .flWren ∧ s.decodesAs (.write s.cfg.portEcData 0x04) .flWrdi) ∧
    (∃ st : Byte, exec .flWren s = .next (s.done { s.dev with spiStatus := st, protocolState := .spiFollow } none) ∧
      ∀ b : Nat, st.getLsbD b = if b = 1 then true else s.dev.spiStatus.getLsbD b) ∧
    (∃ st : Byte, exec .flWrdi s = .next (s.done { s.dev with spiStatus := st, protocolState := .spiFollow } none) ∧
      ∀ b : Nat, st.getLsbD b = if b = 1 then false else s.dev.spiStatus.getLsbD b)

/-- The opcodes that reset the address accumulator (its bytes cleared by decision D16), `0xD7` being `0x20` in every
respect. -/
def Obligations.AddressOpcodesResetAccumulator : Prop :=
  ∀ s : State,
    exec .flHsread s = .next (s.done { s.dev with
      spiAddressBytes := #v[0x00, 0x00, 0x00, 0x00], spiAddressRemaining := 3, spiAddressComplete := false
      protocolState := .spiHsRead } none) ∧
    exec .flSe s = .next (s.done { s.dev with
      spiAddressBytes := #v[0x00, 0x00, 0x00, 0x00], spiAddressRemaining := 3, spiAddressComplete := false
      protocolState := .spiSectorErase } none) ∧
    exec .flSeD7 s = exec .flSe s

/-- The ID opcode restarts the ID and stages nothing yet. -/
def Obligations.IdOpcodeRestarts : Prop :=
  ∀ s : State,
    (s.cfg.WellFormed → s.Emulating → s.dev.protocolState = .spiCommand →
      s.decodesAs (.write s.cfg.portEcData 0x9F) .flRdid) ∧
    exec .flRdid s = .next (s.done { s.dev with spiJedecCursor := 0, protocolState := .spiReadJedec } none)

/-- The status write replaces all eight bits, whatever `WEL` is, and returns to `SpiWriteStatus`. -/
def Obligations.StatusWriteUnmasked : Prop :=
  ∀ (s : State) (v : Byte),
    (s.cfg.WellFormed → s.Emulating → s.dev.protocolState = .spiWriteStatusData →
      s.decodesAs (.write s.cfg.portEcData v) (.flStatusData v)) ∧
    exec (.flStatusData v) s = .next (s.done { s.dev with spiStatus := v, protocolState := .spiWriteStatus } none)

/-- An address byte of a sector erase goes into the slot the counter names; above 0 the counter goes down; at 0 the address
is complete, latched with slot 0 most significant, and the state returns to `SpiFollow` (decisions D14, D15). -/
def Obligations.EraseAddressByte : Prop :=
  ∀ (s : State) (v : Byte),
    (∀ n : Fin 4, s.dev.spiAddressRemaining = n → n.val ≠ 0 → exec (.flAddrSe v) s = .next (s.done { s.dev with
      spiAddressBytes := s.dev.spiAddressBytes.set n.val v n.isLt
      spiAddressRemaining := n - 1 } none)) ∧
    (s.dev.spiAddressRemaining = 0 → exec (.flAddrSe v) s = .next (s.done { s.dev with
      spiAddressBytes := s.dev.spiAddressBytes.set 0 v
      spiAddressComplete := true
      spiAddress := v ++ s.dev.spiAddressBytes[1] ++ s.dev.spiAddressBytes[2] ++ s.dev.spiAddressBytes[3]
      protocolState := .spiFollow } none))

/-- An address byte of a high-speed read goes the same way but keeps the state; once the address is complete the dummy byte
is dropped and the state becomes `SpiHsReadData` (decisions D14, D15). -/
def Obligations.ReadAddressByte : Prop :=
  ∀ (s : State) (v : Byte),
    (s.dev.spiAddressComplete = false → ∀ n : Fin 4, s.dev.spiAddressRemaining = n → n.val ≠ 0 →
      exec (.flAddrHs v) s = .next (s.done { s.dev with
        spiAddressBytes := s.dev.spiAddressBytes.set n.val v n.isLt
        spiAddressRemaining := n - 1 } none)) ∧
    (s.dev.spiAddressComplete = false → s.dev.spiAddressRemaining = 0 →
      exec (.flAddrHs v) s = .next (s.done { s.dev with
        spiAddressBytes := s.dev.spiAddressBytes.set 0 v
        spiAddressComplete := true
        spiAddress := v ++ s.dev.spiAddressBytes[1] ++ s.dev.spiAddressBytes[2] ++ s.dev.spiAddressBytes[3] } none)) ∧
    (s.dev.spiAddressComplete = true →
      exec (.flAddrHs v) s = .next (s.done { s.dev with protocolState := .spiHsReadData } none))

/-- Sector-erase address round trip, for every address and whatever `WEL` is: after the write phase four bytes, least
significant first, give the address; the state is still the address phase after the third and `SpiFollow` after the fourth
(decisions D14, D15, D17). -/
def Obligations.SectorEraseAddress : Prop :=
  ∀ (s : State) (a1 a2 a3 a4 : Byte) (rest : List HostAccess), s.cfg.WellFormed → s.Emulating →
    s.dev.protocolState = .spiSectorErase →
    s.bus.pending = [Transaction.write s.cfg.portEcCmd 0x03, .write s.cfg.portEcData a1, .write s.cfg.portEcData a2,
      .write s.cfg.portEcData a3, .write s.cfg.portEcData a4].map Transaction.access ++ rest →
    (∃ u, runs 4 s = .next u ∧ u.dev.protocolState = .spiSectorEraseAddress ∧ u.dev.spiAddress = s.dev.spiAddress) ∧
    ∃ t, runs 5 s = .next t ∧ t.bus.pending = rest ∧ t.dev = { s.dev with
      protocolState := .spiFollow
      spiAddressBytes := #v[a4, a3, a2, a1]
      spiAddressRemaining := 0
      spiAddressComplete := true
      spiAddress := a4 ++ a3 ++ a2 ++ a1 }

/-- High-speed read: four address bytes, one dummy byte, then the first read phase offers the filler `0xFF`, over whatever is
staged, and leaves the address alone (decisions D13, D14, D15, D27). -/
def Obligations.HighSpeedReadSequence : Prop :=
  ∀ (s : State) (a1 a2 a3 a4 dummy : Byte) (rest : List HostAccess), s.cfg.WellFormed → s.Emulating →
    s.dev.protocolState = .spiHsRead →
    s.bus.pending = [Transaction.write s.cfg.portEcCmd 0x03, .write s.cfg.portEcData a1, .write s.cfg.portEcData a2,
      .write s.cfg.portEcData a3, .write s.cfg.portEcData a4, .write s.cfg.portEcData dummy,
      .write s.cfg.portEcCmd 0x04, .read s.cfg.portEcData].map Transaction.access ++ rest →
    (∃ u, runs 5 s = .next u ∧ u.dev.protocolState = .spiHsReadAddress ∧ u.dev.spiAddress = a4 ++ a3 ++ a2 ++ a1) ∧
    ∃ t, runs 8 s = .next t ∧ t.bus.result = some 0xFF ∧ t.bus.pending = rest ∧
      t.dev.protocolState = .spiHsReadData ∧ t.dev.spiAddress = a4 ++ a3 ++ a2 ++ a1 ∧
      t.dev.spiStatus = s.dev.spiStatus

/-- Only the two latch opcodes and the status data byte change `spi_status`; that no operation clears the latch on completion
is decision D17 (log 20). -/
def Obligations.SpiStatusWriters : Prop :=
  ∀ s u : State, step s = .next u → u.dev.spiStatus ≠ s.dev.spiStatus →
    ∃ v rest, s.bus.pending = (Transaction.write s.cfg.portEcData v).access :: rest ∧
      ((s.dev.protocolState = .spiCommand ∧ (v = 0x04 ∨ v = 0x06)) ∨
       (s.dev.protocolState = .spiWriteStatusData ∧ u.dev.spiStatus = v))
end

