-- ==== Sys2Proof/Laws/Memory.lean ====
section
/-! SUPPORT. The laws of a 256-byte space: a read after a write; what reads alike is equal; every space is in canonical form. -/

namespace Sys2Proof.Machine

theorem Memory.readAt_entry_append (a b : Nat) (v : Byte) (m : List Host.Cell) :
    Memory.readAt (Memory.entry a v ++ m) b =
      if a = b ∧ v ≠ Memory.unlisted then v else Memory.readAt m b := by
  unfold Memory.entry
  split_ifs with h <;> simp_all [Memory.readAt]

/-- An address below every listed one reads as an unlisted address. -/
theorem Memory.readAt_of_lt {m : List Host.Cell} {a : Nat} (h : ∀ c ∈ m, a < c.1) :
    Memory.readAt m a = Memory.unlisted := by
  induction m with
  | nil => rfl
  | cons c m ih =>
    have hc : a < c.1 := h c (by simp)
    have : c.1 ≠ a := by omega
    simp [Memory.readAt, this, ih fun d hd => h d (by simp [hd])]

theorem Memory.readAt_writeAt (m : List Host.Cell) (h : m.Pairwise (fun c d => c.1 < d.1)) (a b : Nat) (v : Byte) :
    Memory.readAt (Memory.writeAt m a v) b = if a = b then v else Memory.readAt m b := by
  induction m with
  | nil =>
    have := Memory.readAt_entry_append a b v []
    simp only [List.append_nil] at this
    simp only [Memory.writeAt, this, Memory.readAt]
    split_ifs <;> simp_all
  | cons c m ih =>
    obtain ⟨k, w⟩ := c
    rw [List.pairwise_cons] at h
    have hm := ih h.2
    simp only [Memory.writeAt]
    by_cases h1 : a < k
    · rw [if_pos h1, Memory.readAt_entry_append]
      by_cases h3 : a = b
      · subst h3
        have hk : Memory.readAt ((k, w) :: m) a = Memory.unlisted :=
          Memory.readAt_of_lt fun d hd => by
            rcases List.mem_cons.mp hd with rfl | hd
            · exact h1
            · exact lt_trans h1 (h.1 d hd)
        rw [hk]
        split_ifs <;> simp_all
      · rw [if_neg (by tauto), if_neg h3]
    · rw [if_neg h1]
      by_cases h2 : a = k
      · subst h2
        rw [if_pos rfl, Memory.readAt_entry_append]
        have hk : Memory.readAt m a = Memory.unlisted := Memory.readAt_of_lt fun d hd => h.1 d hd
        by_cases h3 : a = b
        · subst h3
          rw [hk]
          split_ifs <;> simp_all
        · rw [if_neg (by tauto), if_neg h3]
          simp [Memory.readAt, h3]
      · rw [if_neg h2]
        by_cases h3 : a = b
        · subst h3
          have : k ≠ a := fun e => h2 e.symm
          simp [Memory.readAt, this, hm]
        · simp [Memory.readAt, hm, h3]

/-- A read after a write: the byte written at the index, every other byte as before. -/
theorem Memory.read_write (m : Memory) (i j v : Byte) : (m.write i v).read j = if i = j then v else m.read j := by
  unfold Memory.read Memory.write
  rw [Memory.readAt_writeAt m.cells (Memory.wf_iff.mp m.canonical).1]
  simp [BitVec.toNat_inj]

@[simp] theorem Memory.read_write_self (m : Memory) (i v : Byte) : (m.write i v).read i = v := by
  rw [Memory.read_write, if_pos rfl]

@[simp] theorem Memory.write_cells (m : Memory) (i v : Byte) :
    (m.write i v).cells = Memory.writeAt m.cells i.toNat v := rfl

/-- Every space is in canonical form (00_scope.md R3), so what any operation leaves is. -/
theorem Memory.wf_cells (m : Memory) : Memory.wf m.cells = true := m.canonical

@[simp] theorem Memory.read_empty (i : Byte) : Memory.empty.read i = 0x00 := rfl

/-- Canonical lists that read alike are equal. -/
theorem Memory.cells_ext {m n : List Host.Cell}
    (hm : m.Pairwise (fun c d => c.1 < d.1) ∧ ∀ c ∈ m, c.1 < 256 ∧ c.2 ≠ Memory.unlisted)
    (hn : n.Pairwise (fun c d => c.1 < d.1) ∧ ∀ c ∈ n, c.1 < 256 ∧ c.2 ≠ Memory.unlisted)
    (h' : ∀ a, Memory.readAt m a = Memory.readAt n a) : m = n := by
  induction m generalizing n with
  | nil =>
    cases n with
    | nil => rfl
    | cons d n =>
      have := h' d.1
      simp [Memory.readAt] at this
      exact absurd this.symm (hn.2 d (by simp)).2
  | cons c m ih =>
    cases n with
    | nil =>
      have := h' c.1
      simp [Memory.readAt] at this
      exact absurd this (hm.2 c (by simp)).2
    | cons d n =>
      obtain ⟨hm1, hm2⟩ := hm
      obtain ⟨hn1, hn2⟩ := hn
      have pm := List.pairwise_cons.mp hm1
      have pn := List.pairwise_cons.mp hn1
      have hcd : c.1 = d.1 := by
        rcases lt_trichotomy c.1 d.1 with hlt | heq | hgt
        · have h1 := h' c.1
          have h2 : Memory.readAt (d :: n) c.1 = Memory.unlisted := Memory.readAt_of_lt fun e he => by
            rcases List.mem_cons.mp he with rfl | he
            · exact hlt
            · exact lt_trans hlt (pn.1 e he)
          rw [h2] at h1
          simp [Memory.readAt] at h1
          exact absurd h1 (hm2 c (by simp)).2
        · exact heq
        · have h1 := h' d.1
          have h2 : Memory.readAt (c :: m) d.1 = Memory.unlisted := Memory.readAt_of_lt fun e he => by
            rcases List.mem_cons.mp he with rfl | he
            · exact hgt
            · exact lt_trans hgt (pm.1 e he)
          rw [h2] at h1
          simp [Memory.readAt] at h1
          exact absurd h1.symm (hn2 d (by simp)).2
      have hv : c.2 = d.2 := by simpa [Memory.readAt, hcd] using h' c.1
      have hc : c = d := Prod.ext hcd hv
      subst hc
      congr 1
      refine ih ⟨pm.2, fun e he => hm2 e (by simp [he])⟩ ⟨pn.2, fun e he => hn2 e (by simp [he])⟩ fun a => ?_
      by_cases ha : c.1 = a
      · subst ha
        rw [Memory.readAt_of_lt pm.1, Memory.readAt_of_lt pn.1]
      · simpa [Memory.readAt, ha] using h' a

/-- Outside the space nothing is listed. -/
theorem Memory.readAt_outside {l : List Host.Cell} (h : ∀ c ∈ l, c.1 < 256 ∧ c.2 ≠ Memory.unlisted) {a : Nat}
    (ha : ¬ a < 256) : Memory.readAt l a = Memory.unlisted := by
  induction l with
  | nil => rfl
  | cons c l ih =>
    have : c.1 ≠ a := by have := (h c (by simp)).1; omega
    simp [Memory.readAt, this, ih fun d hd => h d (by simp [hd])]

/-- Spaces that read alike are equal. -/
theorem Memory.ext_read {m n : Memory} (h : ∀ i : Byte, m.read i = n.read i) : m = n := by
  have hm := Memory.wf_iff.mp m.canonical
  have hn := Memory.wf_iff.mp n.canonical
  have hc : m.cells = n.cells := Memory.cells_ext hm hn fun a => by
    by_cases ha : a < 256
    · simpa [Memory.read, Nat.mod_eq_of_lt ha] using h (BitVec.ofNat 8 a)
    · rw [Memory.readAt_outside hm.2 ha, Memory.readAt_outside hn.2 ha]
  cases m
  cases n
  cases hc
  rfl

/-! The command record's window. -/

/-- Reading after the write-back of a record: the six bytes of the window, every other byte as before. -/
theorem read_writeRecord (m : Memory) (r : AcpiRecord) (j : Byte) :
    (writeRecord m r).read j =
      if j = 0xF8 then r.cmd else if j = 0xF9 then r.d1 else if j = 0xFA then r.d2 else if j = 0xFB then r.d3
      else if j = 0xFC then r.d4 else if j = 0xFD then r.d5 else m.read j := by
  simp only [writeRecord, Memory.read_write, @eq_comm _ _ j]
  split_ifs <;> simp_all

/-- The net effect of the record interpreter (42_acpi.md R103): at most `acpi_space[0xF9]` changes. -/
theorem read_interpretRecord (m : Memory) (j : Byte) :
    (interpretRecord m).read j =
      if j = 0xF9 ∧ m.read 0xF8 = 0xB1 ∧ m.read 0xFB = 0x00 then lookupB1 (addr16 (m.read 0xF9) (m.read 0xFA))
      else m.read j := by
  unfold interpretRecord answeredRecord
  rw [read_writeRecord]
  by_cases hr : m.read 0xF8 = 0xB1 ∧ m.read 0xFB = 0x00
  · simp only [recordOf, hr, and_self, if_true, and_true]
    split_ifs <;> simp_all
  · simp only [recordOf, hr, if_false, and_false]
    split_ifs <;> simp_all

end Sys2Proof.Machine
end

