-- ==== Sys2Proof/Laws/State.lean ====
section
/-! SUPPORT. One lemma per field per update of the state record, each true by rfl: no later proof unfolds a record
update. -/

namespace Sys2Proof.Machine

variable (d : Device) (b : Bus) (s : State)

/-! `Device.enter`. -/

@[simp] theorem Device.enter_commandRegister (p : ProtocolState) : (d.enter p).commandRegister = d.commandRegister := rfl
@[simp] theorem Device.enter_protocolState (p : ProtocolState) : (d.enter p).protocolState = p := rfl
@[simp] theorem Device.enter_dataRegister (p : ProtocolState) : (d.enter p).dataRegister = d.dataRegister := rfl
@[simp] theorem Device.enter_acpiSpace (p : ProtocolState) : (d.enter p).acpiSpace = d.acpiSpace := rfl
@[simp] theorem Device.enter_acpiIndex (p : ProtocolState) : (d.enter p).acpiIndex = d.acpiIndex := rfl
@[simp] theorem Device.enter_projectCursor (p : ProtocolState) : (d.enter p).projectCursor = d.projectCursor := rfl
@[simp] theorem Device.enter_versionCursor (p : ProtocolState) : (d.enter p).versionCursor = d.versionCursor := rfl
@[simp] theorem Device.enter_superioAddress (p : ProtocolState) : (d.enter p).superioAddress = d.superioAddress := rfl
@[simp] theorem Device.enter_superioRegisters (p : ProtocolState) : (d.enter p).superioRegisters = d.superioRegisters := rfl
@[simp] theorem Device.enter_spiStatus (p : ProtocolState) : (d.enter p).spiStatus = d.spiStatus := rfl
@[simp] theorem Device.enter_spiAddressBytes (p : ProtocolState) : (d.enter p).spiAddressBytes = d.spiAddressBytes := rfl
@[simp] theorem Device.enter_spiAddressRemaining (p : ProtocolState) : (d.enter p).spiAddressRemaining = d.spiAddressRemaining := rfl
@[simp] theorem Device.enter_spiAddressComplete (p : ProtocolState) : (d.enter p).spiAddressComplete = d.spiAddressComplete := rfl
@[simp] theorem Device.enter_spiAddress (p : ProtocolState) : (d.enter p).spiAddress = d.spiAddress := rfl
@[simp] theorem Device.enter_spiJedecCursor (p : ProtocolState) : (d.enter p).spiJedecCursor = d.spiJedecCursor := rfl
@[simp] theorem Device.enter_bypassActive (p : ProtocolState) : (d.enter p).bypassActive = d.bypassActive := rfl

/-! `Device.stage`. -/

@[simp] theorem Device.stage_commandRegister (v : Byte) : (d.stage v).commandRegister = setObf d.commandRegister := rfl
@[simp] theorem Device.stage_protocolState (v : Byte) : (d.stage v).protocolState = d.protocolState := rfl
@[simp] theorem Device.stage_dataRegister (v : Byte) : (d.stage v).dataRegister = v := rfl
@[simp] theorem Device.stage_acpiSpace (v : Byte) : (d.stage v).acpiSpace = d.acpiSpace := rfl
@[simp] theorem Device.stage_acpiIndex (v : Byte) : (d.stage v).acpiIndex = d.acpiIndex := rfl
@[simp] theorem Device.stage_projectCursor (v : Byte) : (d.stage v).projectCursor = d.projectCursor := rfl
@[simp] theorem Device.stage_versionCursor (v : Byte) : (d.stage v).versionCursor = d.versionCursor := rfl
@[simp] theorem Device.stage_superioAddress (v : Byte) : (d.stage v).superioAddress = d.superioAddress := rfl
@[simp] theorem Device.stage_superioRegisters (v : Byte) : (d.stage v).superioRegisters = d.superioRegisters := rfl
@[simp] theorem Device.stage_spiStatus (v : Byte) : (d.stage v).spiStatus = d.spiStatus := rfl
@[simp] theorem Device.stage_spiAddressBytes (v : Byte) : (d.stage v).spiAddressBytes = d.spiAddressBytes := rfl
@[simp] theorem Device.stage_spiAddressRemaining (v : Byte) : (d.stage v).spiAddressRemaining = d.spiAddressRemaining := rfl
@[simp] theorem Device.stage_spiAddressComplete (v : Byte) : (d.stage v).spiAddressComplete = d.spiAddressComplete := rfl
@[simp] theorem Device.stage_spiAddress (v : Byte) : (d.stage v).spiAddress = d.spiAddress := rfl
@[simp] theorem Device.stage_spiJedecCursor (v : Byte) : (d.stage v).spiJedecCursor = d.spiJedecCursor := rfl
@[simp] theorem Device.stage_bypassActive (v : Byte) : (d.stage v).bypassActive = d.bypassActive := rfl

/-! `Device.unstage`. -/

@[simp] theorem Device.unstage_commandRegister : (d.unstage).commandRegister = clearObf d.commandRegister := rfl
@[simp] theorem Device.unstage_protocolState : (d.unstage).protocolState = d.protocolState := rfl
@[simp] theorem Device.unstage_dataRegister : (d.unstage).dataRegister = 0x00 := rfl
@[simp] theorem Device.unstage_acpiSpace : (d.unstage).acpiSpace = d.acpiSpace := rfl
@[simp] theorem Device.unstage_acpiIndex : (d.unstage).acpiIndex = d.acpiIndex := rfl
@[simp] theorem Device.unstage_projectCursor : (d.unstage).projectCursor = d.projectCursor := rfl
@[simp] theorem Device.unstage_versionCursor : (d.unstage).versionCursor = d.versionCursor := rfl
@[simp] theorem Device.unstage_superioAddress : (d.unstage).superioAddress = d.superioAddress := rfl
@[simp] theorem Device.unstage_superioRegisters : (d.unstage).superioRegisters = d.superioRegisters := rfl
@[simp] theorem Device.unstage_spiStatus : (d.unstage).spiStatus = d.spiStatus := rfl
@[simp] theorem Device.unstage_spiAddressBytes : (d.unstage).spiAddressBytes = d.spiAddressBytes := rfl
@[simp] theorem Device.unstage_spiAddressRemaining : (d.unstage).spiAddressRemaining = d.spiAddressRemaining := rfl
@[simp] theorem Device.unstage_spiAddressComplete : (d.unstage).spiAddressComplete = d.spiAddressComplete := rfl
@[simp] theorem Device.unstage_spiAddress : (d.unstage).spiAddress = d.spiAddress := rfl
@[simp] theorem Device.unstage_spiJedecCursor : (d.unstage).spiJedecCursor = d.spiJedecCursor := rfl
@[simp] theorem Device.unstage_bypassActive : (d.unstage).bypassActive = d.bypassActive := rfl

/-! `Device.accReset`. -/

@[simp] theorem Device.accReset_commandRegister : (d.accReset).commandRegister = d.commandRegister := rfl
@[simp] theorem Device.accReset_protocolState : (d.accReset).protocolState = d.protocolState := rfl
@[simp] theorem Device.accReset_dataRegister : (d.accReset).dataRegister = d.dataRegister := rfl
@[simp] theorem Device.accReset_acpiSpace : (d.accReset).acpiSpace = d.acpiSpace := rfl
@[simp] theorem Device.accReset_acpiIndex : (d.accReset).acpiIndex = d.acpiIndex := rfl
@[simp] theorem Device.accReset_projectCursor : (d.accReset).projectCursor = d.projectCursor := rfl
@[simp] theorem Device.accReset_versionCursor : (d.accReset).versionCursor = d.versionCursor := rfl
@[simp] theorem Device.accReset_superioAddress : (d.accReset).superioAddress = d.superioAddress := rfl
@[simp] theorem Device.accReset_superioRegisters : (d.accReset).superioRegisters = d.superioRegisters := rfl
@[simp] theorem Device.accReset_spiStatus : (d.accReset).spiStatus = d.spiStatus := rfl
@[simp] theorem Device.accReset_spiAddressBytes : (d.accReset).spiAddressBytes = #v[0x00, 0x00, 0x00, 0x00] := rfl
@[simp] theorem Device.accReset_spiAddressRemaining : (d.accReset).spiAddressRemaining = 3 := rfl
@[simp] theorem Device.accReset_spiAddressComplete : (d.accReset).spiAddressComplete = false := rfl
@[simp] theorem Device.accReset_spiAddress : (d.accReset).spiAddress = d.spiAddress := rfl
@[simp] theorem Device.accReset_spiJedecCursor : (d.accReset).spiJedecCursor = d.spiJedecCursor := rfl
@[simp] theorem Device.accReset_bypassActive : (d.accReset).bypassActive = d.bypassActive := rfl

/-! `Bus.retire`. -/

@[simp] theorem Bus.retire_started (r : Option Byte) : (b.retire r).started = b.started := rfl
@[simp] theorem Bus.retire_pending (r : Option Byte) : (b.retire r).pending = b.pending.tail := rfl
@[simp] theorem Bus.retire_result (r : Option Byte) : (b.retire r).result = r := rfl
@[simp] theorem Bus.retire_peerAnswers (r : Option Byte) : (b.retire r).peerAnswers = b.peerAnswers := rfl
@[simp] theorem Bus.retire_wire (r : Option Byte) : (b.retire r).wire = b.wire := rfl

/-! `Bus.exchanged`. -/

@[simp] theorem Bus.exchanged_started (r : PeerRequest) : (b.exchanged r).started = b.started := rfl
@[simp] theorem Bus.exchanged_pending (r : PeerRequest) : (b.exchanged r).pending = b.pending := rfl
@[simp] theorem Bus.exchanged_result (r : PeerRequest) : (b.exchanged r).result = b.result := rfl
@[simp] theorem Bus.exchanged_peerAnswers (r : PeerRequest) : (b.exchanged r).peerAnswers = b.peerAnswers.tail := rfl
@[simp] theorem Bus.exchanged_wire (r : PeerRequest) : (b.exchanged r).wire = b.wire ++ [r] := rfl

/-! A completed transaction. -/

@[simp] theorem State.complete_eq (e : Device) (r : Option Byte) :
    s.complete e r = .next { s with dev := e, bus := s.bus.retire r } := rfl
@[simp] theorem State.completeWrite_eq (e : Device) :
    s.completeWrite e = .next { s with dev := e, bus := s.bus.retire none } := rfl
@[simp] theorem State.completeRead_eq (e : Device) (r : Byte) :
    s.completeRead e r = .next { s with dev := e, bus := s.bus.retire (some r) } := rfl

/-! The context a transaction is decoded in. -/

@[simp] theorem State.decodeContext_cfg : s.decodeContext.cfg = s.cfg := rfl
@[simp] theorem State.decodeContext_bypassActive : s.decodeContext.bypassActive = s.dev.bypassActive := rfl
@[simp] theorem State.decodeContext_protocolState : s.decodeContext.protocolState = s.dev.protocolState := rfl

/-! The flags. -/

@[simp] theorem obf_setObf (r : Byte) : obf (setObf r) = true := by simp [obf, setObf]
@[simp] theorem obf_clearObf (r : Byte) : obf (clearObf r) = false := by simp [obf, clearObf]
@[simp] theorem obf_zero : obf 0x00 = false := by decide
@[simp] theorem wel_setWel (r : Byte) : wel (setWel r) = true := by simp [wel, setWel]
@[simp] theorem wel_clearWel (r : Byte) : wel (clearWel r) = false := by simp [wel, clearWel]

end Sys2Proof.Machine
end

