-- ==== Sys2Proof/Laws/Ops.lean ====
section
/-! SUPPORT. One lemma per shared operation that says once everything it can do, and what it leaves alone. -/

namespace Sys2Proof.Machine

/-! Operand assembly. -/

/-- The lookup address is its two bytes, the first most significant (30_encoding.md R71 c). -/
theorem addr16_eq_append (a b : Byte) : addr16 a b = a ++ b := by
  apply BitVec.eq_of_getLsbD_eq
  intro i hi
  rw [BitVec.getLsbD_append]
  simp only [addr16, BitVec.getLsbD_or, BitVec.getLsbD_shiftLeft, BitVec.getLsbD_setWidth]
  by_cases h : i < 8
  · simp [h]; intro; omega
  · simp [h, BitVec.getLsbD_of_ge b i (by omega), show i < 16 from hi, show i - 8 < 16 by omega]

/-- The flash address is its four slots, slot 0 most significant (45_spi_flash.md R174). -/
theorem assembleAddress_eq_append (b : Vector Byte 4) : assembleAddress b = b[0] ++ b[1] ++ b[2] ++ b[3] := by
  apply BitVec.eq_of_getLsbD_eq
  intro i hi
  rw [BitVec.getLsbD_append, BitVec.getLsbD_append, BitVec.getLsbD_append]
  simp only [assembleAddress, BitVec.getLsbD_or, BitVec.getLsbD_shiftLeft, BitVec.getLsbD_setWidth]
  by_cases h : i < 8
  · simp [h, show i < 16 by omega, show i < 24 by omega]; intro; omega
  · have h3 := BitVec.getLsbD_of_ge b[3] i (by omega)
    by_cases h1 : i < 16
    · simp [h, h1, show i - 8 < 8 by omega, show i < 24 by omega, hi, h3]; intro; omega
    · have h2 := BitVec.getLsbD_of_ge b[2] (i - 8) (by omega)
      by_cases h2' : i < 24
      · simp [h, h1, h2', hi, h3, h2, show ¬ i - 8 < 8 by omega, show i - 16 < 8 by omega, show i - 16 < 32 by omega, show i - 8 - 8 = i - 16 by omega]
      · have h1' := BitVec.getLsbD_of_ge b[1] (i - 16) (by omega)
        simp [h, h1, h2', hi, h3, h2, h1', show ¬ i - 8 < 8 by omega, show ¬ i - 8 - 8 < 8 by omega, show i - 8 - 8 - 8 = i - 24 by omega]; intro; omega

/-! The string auto-stage. -/

/-- A character that is not the terminator stands inside the string (20_memory.md R57 a). -/
theorem lt_length_of_charAt {x : IdString} {n : Nat} (h : charAt x n ≠ 0x00) : n < x.chars.length := by
  by_contra hn
  apply h
  unfold charAt storedString
  rcases Nat.lt_or_ge n (x.chars.length + 1) with h1 | h1
  · have : n = x.chars.length := by omega
    subst this
    simp
  · rw [List.getD_eq_default]
    simpa using h1

/-- Inside the string the character is the string's own. -/
theorem charAt_of_lt {x : IdString} {n : Nat} (h : n < x.chars.length) : charAt x n = x.chars[n] := by
  simp [charAt, storedString, List.getD_eq_getElem?_getD, List.getElem?_append_left h, h]

/-- At the end of the string stands its terminator (00_scope.md R2). -/
theorem charAt_length (x : IdString) : charAt x x.chars.length = 0x00 := by simp [charAt, storedString]

theorem idString_wf_iff {l : List Byte} : IdString.wf l = true ↔ l.length ≤ 15 ∧ ∀ b ∈ l, b ≠ 0x00 := by
  simp only [IdString.wf, Bool.and_eq_true, decide_eq_true_eq, List.all_eq_true]

/-- A stored string fits its buffer of 16 bytes (00_scope.md R3). -/
theorem storedString_length_le (x : IdString) : (storedString x).length ≤ 16 := by
  have := (idString_wf_iff.mp x.bounded).1
  simp only [storedString, List.length_append, List.length_singleton]
  omega

/-- No character of a string is its terminator (00_scope.md R2). -/
theorem charAt_ne_zero {x : IdString} {n : Nat} (h : n < x.chars.length) : charAt x n ≠ 0x00 := by
  rw [charAt_of_lt h]
  exact (idString_wf_iff.mp x.bounded).2 _ (List.getElem_mem h)

/-- The auto-stage does one of five things: nothing, a project character, the end of the project string, a version
character, the end of the version string (43_ec_dispatch.md R117 to R119). -/
theorem Device.autoStage_cases (c : Config) (d : Device) :
    d.autoStage c = d ∨
    (d.protocolState = .getProject ∧ obf d.commandRegister = false ∧
      ((charAt c.projectString d.projectCursor ≠ 0x00 ∧ d.autoStage c =
          { d.stage (charAt c.projectString d.projectCursor) with projectCursor := d.projectCursor + 1 }) ∨
       (charAt c.projectString d.projectCursor = 0x00 ∧ d.autoStage c = (d.stage terminator).enter .idle))) ∨
    (d.protocolState = .getVersion ∧ obf d.commandRegister = false ∧
      ((charAt c.versionString d.versionCursor ≠ 0x00 ∧ d.autoStage c =
          { d.stage (charAt c.versionString d.versionCursor) with versionCursor := d.versionCursor + 1 }) ∨
       (charAt c.versionString d.versionCursor = 0x00 ∧ d.autoStage c = (d.stage terminator).enter .idle))) := by
  unfold Device.autoStage Device.autoStageProject Device.autoStageVersion
  by_cases h1 : d.protocolState = .getProject ∧ obf d.commandRegister = false
  · refine .inr (.inl ⟨h1.1, h1.2, ?_⟩)
    rw [if_pos h1]
    by_cases h2 : charAt c.projectString d.projectCursor ≠ 0x00
    · exact .inl ⟨h2, if_pos h2⟩
    · exact .inr ⟨not_not.mp h2, if_neg h2⟩
  · by_cases h2 : d.protocolState = .getVersion ∧ obf d.commandRegister = false
    · refine .inr (.inr ⟨h2.1, h2.2, ?_⟩)
      rw [if_neg h1, if_pos h2]
      by_cases h3 : charAt c.versionString d.versionCursor ≠ 0x00
      · exact .inl ⟨h3, if_pos h3⟩
      · exact .inr ⟨not_not.mp h3, if_neg h3⟩
    · exact .inl (by rw [if_neg h1, if_neg h2])

@[simp] theorem Device.autoStage_acpiSpace (c : Config) (d : Device) : (d.autoStage c).acpiSpace = d.acpiSpace := by
  unfold Device.autoStage Device.autoStageProject Device.autoStageVersion; split_ifs <;> rfl
@[simp] theorem Device.autoStage_acpiIndex (c : Config) (d : Device) : (d.autoStage c).acpiIndex = d.acpiIndex := by
  unfold Device.autoStage Device.autoStageProject Device.autoStageVersion; split_ifs <;> rfl
@[simp] theorem Device.autoStage_superioAddress (c : Config) (d : Device) : (d.autoStage c).superioAddress = d.superioAddress := by
  unfold Device.autoStage Device.autoStageProject Device.autoStageVersion; split_ifs <;> rfl
@[simp] theorem Device.autoStage_superioRegisters (c : Config) (d : Device) : (d.autoStage c).superioRegisters = d.superioRegisters := by
  unfold Device.autoStage Device.autoStageProject Device.autoStageVersion; split_ifs <;> rfl
@[simp] theorem Device.autoStage_spiStatus (c : Config) (d : Device) : (d.autoStage c).spiStatus = d.spiStatus := by
  unfold Device.autoStage Device.autoStageProject Device.autoStageVersion; split_ifs <;> rfl
@[simp] theorem Device.autoStage_spiAddressBytes (c : Config) (d : Device) : (d.autoStage c).spiAddressBytes = d.spiAddressBytes := by
  unfold Device.autoStage Device.autoStageProject Device.autoStageVersion; split_ifs <;> rfl
@[simp] theorem Device.autoStage_spiAddressRemaining (c : Config) (d : Device) : (d.autoStage c).spiAddressRemaining = d.spiAddressRemaining := by
  unfold Device.autoStage Device.autoStageProject Device.autoStageVersion; split_ifs <;> rfl
@[simp] theorem Device.autoStage_spiAddressComplete (c : Config) (d : Device) : (d.autoStage c).spiAddressComplete = d.spiAddressComplete := by
  unfold Device.autoStage Device.autoStageProject Device.autoStageVersion; split_ifs <;> rfl
@[simp] theorem Device.autoStage_spiAddress (c : Config) (d : Device) : (d.autoStage c).spiAddress = d.spiAddress := by
  unfold Device.autoStage Device.autoStageProject Device.autoStageVersion; split_ifs <;> rfl
@[simp] theorem Device.autoStage_spiJedecCursor (c : Config) (d : Device) : (d.autoStage c).spiJedecCursor = d.spiJedecCursor := by
  unfold Device.autoStage Device.autoStageProject Device.autoStageVersion; split_ifs <;> rfl
@[simp] theorem Device.autoStage_bypassActive (c : Config) (d : Device) : (d.autoStage c).bypassActive = d.bypassActive := by
  unfold Device.autoStage Device.autoStageProject Device.autoStageVersion; split_ifs <;> rfl

/-! The address accumulator. -/

theorem Device.takeAddressByte_counting {d : Device} (v : Byte) (h : 0 < d.spiAddressRemaining.val) :
    d.takeAddressByte v =
      { d with spiAddressBytes := d.storedAddressBytes v, spiAddressRemaining := d.spiAddressRemaining - 1 } := by
  simp [Device.takeAddressByte, h]

theorem Device.takeAddressByte_last {d : Device} (v : Byte) (h : d.spiAddressRemaining.val = 0) :
    d.takeAddressByte v =
      { d with
        spiAddressBytes := d.storedAddressBytes v
        spiAddressComplete := true
        spiAddress := assembleAddress (d.storedAddressBytes v) } := by
  simp [Device.takeAddressByte, h]

@[simp] theorem Device.takeAddressByte_commandRegister (d : Device) (v : Byte) : (d.takeAddressByte v).commandRegister = d.commandRegister := by
  unfold Device.takeAddressByte; split_ifs <;> rfl
@[simp] theorem Device.takeAddressByte_protocolState (d : Device) (v : Byte) : (d.takeAddressByte v).protocolState = d.protocolState := by
  unfold Device.takeAddressByte; split_ifs <;> rfl
@[simp] theorem Device.takeAddressByte_dataRegister (d : Device) (v : Byte) : (d.takeAddressByte v).dataRegister = d.dataRegister := by
  unfold Device.takeAddressByte; split_ifs <;> rfl
@[simp] theorem Device.takeAddressByte_acpiSpace (d : Device) (v : Byte) : (d.takeAddressByte v).acpiSpace = d.acpiSpace := by
  unfold Device.takeAddressByte; split_ifs <;> rfl
@[simp] theorem Device.takeAddressByte_acpiIndex (d : Device) (v : Byte) : (d.takeAddressByte v).acpiIndex = d.acpiIndex := by
  unfold Device.takeAddressByte; split_ifs <;> rfl
@[simp] theorem Device.takeAddressByte_projectCursor (d : Device) (v : Byte) : (d.takeAddressByte v).projectCursor = d.projectCursor := by
  unfold Device.takeAddressByte; split_ifs <;> rfl
@[simp] theorem Device.takeAddressByte_versionCursor (d : Device) (v : Byte) : (d.takeAddressByte v).versionCursor = d.versionCursor := by
  unfold Device.takeAddressByte; split_ifs <;> rfl
@[simp] theorem Device.takeAddressByte_superioAddress (d : Device) (v : Byte) : (d.takeAddressByte v).superioAddress = d.superioAddress := by
  unfold Device.takeAddressByte; split_ifs <;> rfl
@[simp] theorem Device.takeAddressByte_superioRegisters (d : Device) (v : Byte) : (d.takeAddressByte v).superioRegisters = d.superioRegisters := by
  unfold Device.takeAddressByte; split_ifs <;> rfl
@[simp] theorem Device.takeAddressByte_spiStatus (d : Device) (v : Byte) : (d.takeAddressByte v).spiStatus = d.spiStatus := by
  unfold Device.takeAddressByte; split_ifs <;> rfl
@[simp] theorem Device.takeAddressByte_spiJedecCursor (d : Device) (v : Byte) : (d.takeAddressByte v).spiJedecCursor = d.spiJedecCursor := by
  unfold Device.takeAddressByte; split_ifs <;> rfl
@[simp] theorem Device.takeAddressByte_bypassActive (d : Device) (v : Byte) : (d.takeAddressByte v).bypassActive = d.bypassActive := by
  unfold Device.takeAddressByte; split_ifs <;> rfl

/-! The JEDEC read phase. -/

@[simp] theorem Device.stageJedec_protocolState (c : Config) (d : Device) : (d.stageJedec c).protocolState = d.protocolState := by
  unfold Device.stageJedec; split_ifs <;> rfl
@[simp] theorem Device.stageJedec_acpiSpace (c : Config) (d : Device) : (d.stageJedec c).acpiSpace = d.acpiSpace := by
  unfold Device.stageJedec; split_ifs <;> rfl
@[simp] theorem Device.stageJedec_acpiIndex (c : Config) (d : Device) : (d.stageJedec c).acpiIndex = d.acpiIndex := by
  unfold Device.stageJedec; split_ifs <;> rfl
@[simp] theorem Device.stageJedec_projectCursor (c : Config) (d : Device) : (d.stageJedec c).projectCursor = d.projectCursor := by
  unfold Device.stageJedec; split_ifs <;> rfl
@[simp] theorem Device.stageJedec_versionCursor (c : Config) (d : Device) : (d.stageJedec c).versionCursor = d.versionCursor := by
  unfold Device.stageJedec; split_ifs <;> rfl
@[simp] theorem Device.stageJedec_superioAddress (c : Config) (d : Device) : (d.stageJedec c).superioAddress = d.superioAddress := by
  unfold Device.stageJedec; split_ifs <;> rfl
@[simp] theorem Device.stageJedec_superioRegisters (c : Config) (d : Device) : (d.stageJedec c).superioRegisters = d.superioRegisters := by
  unfold Device.stageJedec; split_ifs <;> rfl
@[simp] theorem Device.stageJedec_spiStatus (c : Config) (d : Device) : (d.stageJedec c).spiStatus = d.spiStatus := by
  unfold Device.stageJedec; split_ifs <;> rfl
@[simp] theorem Device.stageJedec_spiAddressBytes (c : Config) (d : Device) : (d.stageJedec c).spiAddressBytes = d.spiAddressBytes := by
  unfold Device.stageJedec; split_ifs <;> rfl
@[simp] theorem Device.stageJedec_spiAddressRemaining (c : Config) (d : Device) : (d.stageJedec c).spiAddressRemaining = d.spiAddressRemaining := by
  unfold Device.stageJedec; split_ifs <;> rfl
@[simp] theorem Device.stageJedec_spiAddressComplete (c : Config) (d : Device) : (d.stageJedec c).spiAddressComplete = d.spiAddressComplete := by
  unfold Device.stageJedec; split_ifs <;> rfl
@[simp] theorem Device.stageJedec_spiAddress (c : Config) (d : Device) : (d.stageJedec c).spiAddress = d.spiAddress := by
  unfold Device.stageJedec; split_ifs <;> rfl
@[simp] theorem Device.stageJedec_bypassActive (c : Config) (d : Device) : (d.stageJedec c).bypassActive = d.bypassActive := by
  unfold Device.stageJedec; split_ifs <;> rfl

/-- The read phase stages an ID byte and moves the cursor, or changes nothing (44_spi_control.md R144). -/
theorem Device.stageJedec_cases (c : Config) (d : Device) :
    (∃ h : d.spiJedecCursor < 4, d.stageJedec c =
      { d.stage c.jedecId[d.spiJedecCursor] with spiJedecCursor := d.spiJedecCursor + 1 }) ∨
    (4 ≤ d.spiJedecCursor ∧ d.stageJedec c = d) := by
  unfold Device.stageJedec
  by_cases h : d.spiJedecCursor < 4
  · exact .inl ⟨h, by simp [h]⟩
  · exact .inr ⟨by omega, by simp [h]⟩

/-! The two phases of the SPI control layer. -/

/-- A write phase enters a data or address phase, or changes nothing (44_spi_control.md R143). -/
theorem writePhase_cases (d : Device) :
    (d.protocolState = .spiWriteStatus ∧ writePhase d = d.enter .spiWriteStatusData) ∨
    (d.protocolState = .spiSectorErase ∧ writePhase d = d.accReset.enter .spiSectorEraseAddress) ∨
    (d.protocolState = .spiHsRead ∧ writePhase d = d.accReset.enter .spiHsReadAddress) ∨
    writePhase d = d := by
  unfold writePhase
  cases h : d.protocolState <;> simp

/-- A read phase stages the status, an ID byte or the filler, or changes nothing (44_spi_control.md R144). -/
theorem readPhase_cases (c : Config) (d : Device) :
    (d.protocolState = .spiReadStatus ∧ readPhase c d = d.stage d.spiStatus) ∨
    (d.protocolState = .spiReadJedec ∧ readPhase c d = d.stageJedec c) ∨
    (d.protocolState = .spiHsReadData ∧ readPhase c d = d.stage filler) ∨
    readPhase c d = d := by
  unfold readPhase
  cases h : d.protocolState <;> simp

@[simp] theorem writePhase_commandRegister (d : Device) : (writePhase d).commandRegister = d.commandRegister := by
  rcases writePhase_cases d with ⟨-, h⟩ | ⟨-, h⟩ | ⟨-, h⟩ | h <;> rw [h] <;> rfl
@[simp] theorem writePhase_dataRegister (d : Device) : (writePhase d).dataRegister = d.dataRegister := by
  rcases writePhase_cases d with ⟨-, h⟩ | ⟨-, h⟩ | ⟨-, h⟩ | h <;> rw [h] <;> rfl
@[simp] theorem writePhase_acpiSpace (d : Device) : (writePhase d).acpiSpace = d.acpiSpace := by
  rcases writePhase_cases d with ⟨-, h⟩ | ⟨-, h⟩ | ⟨-, h⟩ | h <;> rw [h] <;> rfl
@[simp] theorem writePhase_acpiIndex (d : Device) : (writePhase d).acpiIndex = d.acpiIndex := by
  rcases writePhase_cases d with ⟨-, h⟩ | ⟨-, h⟩ | ⟨-, h⟩ | h <;> rw [h] <;> rfl
@[simp] theorem writePhase_projectCursor (d : Device) : (writePhase d).projectCursor = d.projectCursor := by
  rcases writePhase_cases d with ⟨-, h⟩ | ⟨-, h⟩ | ⟨-, h⟩ | h <;> rw [h] <;> rfl
@[simp] theorem writePhase_versionCursor (d : Device) : (writePhase d).versionCursor = d.versionCursor := by
  rcases writePhase_cases d with ⟨-, h⟩ | ⟨-, h⟩ | ⟨-, h⟩ | h <;> rw [h] <;> rfl
@[simp] theorem writePhase_superioAddress (d : Device) : (writePhase d).superioAddress = d.superioAddress := by
  rcases writePhase_cases d with ⟨-, h⟩ | ⟨-, h⟩ | ⟨-, h⟩ | h <;> rw [h] <;> rfl
@[simp] theorem writePhase_superioRegisters (d : Device) : (writePhase d).superioRegisters = d.superioRegisters := by
  rcases writePhase_cases d with ⟨-, h⟩ | ⟨-, h⟩ | ⟨-, h⟩ | h <;> rw [h] <;> rfl
@[simp] theorem writePhase_spiStatus (d : Device) : (writePhase d).spiStatus = d.spiStatus := by
  rcases writePhase_cases d with ⟨-, h⟩ | ⟨-, h⟩ | ⟨-, h⟩ | h <;> rw [h] <;> rfl
@[simp] theorem writePhase_spiAddress (d : Device) : (writePhase d).spiAddress = d.spiAddress := by
  rcases writePhase_cases d with ⟨-, h⟩ | ⟨-, h⟩ | ⟨-, h⟩ | h <;> rw [h] <;> rfl
@[simp] theorem writePhase_spiJedecCursor (d : Device) : (writePhase d).spiJedecCursor = d.spiJedecCursor := by
  rcases writePhase_cases d with ⟨-, h⟩ | ⟨-, h⟩ | ⟨-, h⟩ | h <;> rw [h] <;> rfl
@[simp] theorem writePhase_bypassActive (d : Device) : (writePhase d).bypassActive = d.bypassActive := by
  rcases writePhase_cases d with ⟨-, h⟩ | ⟨-, h⟩ | ⟨-, h⟩ | h <;> rw [h] <;> rfl

@[simp] theorem readPhase_protocolState (c : Config) (d : Device) : (readPhase c d).protocolState = d.protocolState := by
  rcases readPhase_cases c d with ⟨-, h⟩ | ⟨-, h⟩ | ⟨-, h⟩ | h <;> rw [h] <;> simp
@[simp] theorem readPhase_acpiSpace (c : Config) (d : Device) : (readPhase c d).acpiSpace = d.acpiSpace := by
  rcases readPhase_cases c d with ⟨-, h⟩ | ⟨-, h⟩ | ⟨-, h⟩ | h <;> rw [h] <;> simp
@[simp] theorem readPhase_acpiIndex (c : Config) (d : Device) : (readPhase c d).acpiIndex = d.acpiIndex := by
  rcases readPhase_cases c d with ⟨-, h⟩ | ⟨-, h⟩ | ⟨-, h⟩ | h <;> rw [h] <;> simp
@[simp] theorem readPhase_projectCursor (c : Config) (d : Device) : (readPhase c d).projectCursor = d.projectCursor := by
  rcases readPhase_cases c d with ⟨-, h⟩ | ⟨-, h⟩ | ⟨-, h⟩ | h <;> rw [h] <;> simp
@[simp] theorem readPhase_versionCursor (c : Config) (d : Device) : (readPhase c d).versionCursor = d.versionCursor := by
  rcases readPhase_cases c d with ⟨-, h⟩ | ⟨-, h⟩ | ⟨-, h⟩ | h <;> rw [h] <;> simp
@[simp] theorem readPhase_superioAddress (c : Config) (d : Device) : (readPhase c d).superioAddress = d.superioAddress := by
  rcases readPhase_cases c d with ⟨-, h⟩ | ⟨-, h⟩ | ⟨-, h⟩ | h <;> rw [h] <;> simp
@[simp] theorem readPhase_superioRegisters (c : Config) (d : Device) : (readPhase c d).superioRegisters = d.superioRegisters := by
  rcases readPhase_cases c d with ⟨-, h⟩ | ⟨-, h⟩ | ⟨-, h⟩ | h <;> rw [h] <;> simp
@[simp] theorem readPhase_spiStatus (c : Config) (d : Device) : (readPhase c d).spiStatus = d.spiStatus := by
  rcases readPhase_cases c d with ⟨-, h⟩ | ⟨-, h⟩ | ⟨-, h⟩ | h <;> rw [h] <;> simp
@[simp] theorem readPhase_spiAddressBytes (c : Config) (d : Device) : (readPhase c d).spiAddressBytes = d.spiAddressBytes := by
  rcases readPhase_cases c d with ⟨-, h⟩ | ⟨-, h⟩ | ⟨-, h⟩ | h <;> rw [h] <;> simp
@[simp] theorem readPhase_spiAddressRemaining (c : Config) (d : Device) : (readPhase c d).spiAddressRemaining = d.spiAddressRemaining := by
  rcases readPhase_cases c d with ⟨-, h⟩ | ⟨-, h⟩ | ⟨-, h⟩ | h <;> rw [h] <;> simp
@[simp] theorem readPhase_spiAddressComplete (c : Config) (d : Device) : (readPhase c d).spiAddressComplete = d.spiAddressComplete := by
  rcases readPhase_cases c d with ⟨-, h⟩ | ⟨-, h⟩ | ⟨-, h⟩ | h <;> rw [h] <;> simp
@[simp] theorem readPhase_spiAddress (c : Config) (d : Device) : (readPhase c d).spiAddress = d.spiAddress := by
  rcases readPhase_cases c d with ⟨-, h⟩ | ⟨-, h⟩ | ⟨-, h⟩ | h <;> rw [h] <;> simp
@[simp] theorem readPhase_bypassActive (c : Config) (d : Device) : (readPhase c d).bypassActive = d.bypassActive := by
  rcases readPhase_cases c d with ⟨-, h⟩ | ⟨-, h⟩ | ⟨-, h⟩ | h <;> rw [h] <;> simp

/-! One request to the bypass peer. -/

theorem State.offer_inactive {s : State} (h : s.dev.bypassActive = false) (r : PeerRequest) (f : Byte → Option Byte) :
    s.offer r f = .next s := by simp [State.offer, h]

/-- An answered offer: the peer replied and the transaction is complete, or the channel is torn down and the transaction
is still to be performed (40_bypass.md R80 to R83). -/
theorem State.offer_cases {s t : State} {r : PeerRequest} {f : Byte → Option Byte} (h : s.offer r f = .next t) :
    (s.dev.bypassActive = false ∧ t = s) ∨
    (s.dev.bypassActive = true ∧
      ((∃ v rest, s.bus.peerAnswers = .reply v :: rest ∧ t = { s with bus := (s.bus.exchanged r).retire (f v) }) ∨
       (∃ rest, s.bus.peerAnswers = .failure :: rest ∧
          t = { s with dev := { s.dev with bypassActive := false }, bus := s.bus.exchanged r }))) := by
  unfold State.offer at h
  cases hb : s.dev.bypassActive with
  | false => exact .inl ⟨rfl, by simpa [hb] using h.symm⟩
  | true =>
    refine .inr ⟨rfl, ?_⟩
    rw [hb, if_pos rfl] at h
    split at h
    · cases h
    · exact .inl ⟨_, _, by assumption, by cases h; rfl⟩
    · exact .inr ⟨_, by assumption, by cases h; rfl⟩

end Sys2Proof.Machine
end

