-- ==== Sys2Proof/Laws/PerInstr.lean ====
section
/-! SUPPORT. Statements about every instruction as syntax, one lemma per constructor. -/

namespace Sys2Proof.Laws

open Machine

/-- The encoding of an instruction is as long as its format: six bytes for the command record (30_encoding.md R68), three
for every other row (R69). -/
def EncodedLength.Statement (i : Instr) : Prop :=
  ∀ c, (encode c i).length = if i.format = .acpiRecord then 6 else 3

theorem EncodedLength.sioWaddr (v : Byte) : EncodedLength.Statement (.sioWaddr v) := fun _ => rfl
theorem EncodedLength.sioRaddr : EncodedLength.Statement (.sioRaddr) := fun _ => rfl
theorem EncodedLength.sioWdata (v : Byte) : EncodedLength.Statement (.sioWdata v) := fun _ => rfl
theorem EncodedLength.sioRdata : EncodedLength.Statement (.sioRdata) := fun _ => rfl
theorem EncodedLength.ecRstatus : EncodedLength.Statement (.ecRstatus) := fun _ => rfl
theorem EncodedLength.ecRdata : EncodedLength.Statement (.ecRdata) := fun _ => rfl
theorem EncodedLength.portUnsupported (t : Transaction) : EncodedLength.Statement (.portUnsupported t) := by
  intro c; cases t <;> rfl
theorem EncodedLength.ecGetAcpi : EncodedLength.Statement (.ecGetAcpi) := fun _ => rfl
theorem EncodedLength.ecSetAcpi : EncodedLength.Statement (.ecSetAcpi) := fun _ => rfl
theorem EncodedLength.ecGetProject : EncodedLength.Statement (.ecGetProject) := fun _ => rfl
theorem EncodedLength.ecGetVersion : EncodedLength.Statement (.ecGetVersion) := fun _ => rfl
theorem EncodedLength.ecSpiFollow : EncodedLength.Statement (.ecSpiFollow) := fun _ => rfl
theorem EncodedLength.ecVendorDc : EncodedLength.Statement (.ecVendorDc) := fun _ => rfl
theorem EncodedLength.ecVendorDe : EncodedLength.Statement (.ecVendorDe) := fun _ => rfl
theorem EncodedLength.ecVendorF0 : EncodedLength.Statement (.ecVendorF0) := fun _ => rfl
theorem EncodedLength.ecUnrecognised (c : Byte) : EncodedLength.Statement (.ecUnrecognised c) := fun _ => rfl
theorem EncodedLength.spiFollow : EncodedLength.Statement (.spiFollow) := fun _ => rfl
theorem EncodedLength.spiCommand : EncodedLength.Statement (.spiCommand) := fun _ => rfl
theorem EncodedLength.spiWritePhase : EncodedLength.Statement (.spiWritePhase) := fun _ => rfl
theorem EncodedLength.spiReadPhase : EncodedLength.Statement (.spiReadPhase) := fun _ => rfl
theorem EncodedLength.spiUnfollow : EncodedLength.Statement (.spiUnfollow) := fun _ => rfl
theorem EncodedLength.spiUnrecognised (c : Byte) : EncodedLength.Statement (.spiUnrecognised c) := fun _ => rfl
theorem EncodedLength.flWrsr : EncodedLength.Statement (.flWrsr) := fun _ => rfl
theorem EncodedLength.flWrdi : EncodedLength.Statement (.flWrdi) := fun _ => rfl
theorem EncodedLength.flRdsr : EncodedLength.Statement (.flRdsr) := fun _ => rfl
theorem EncodedLength.flWren : EncodedLength.Statement (.flWren) := fun _ => rfl
theorem EncodedLength.flHsread : EncodedLength.Statement (.flHsread) := fun _ => rfl
theorem EncodedLength.flSe : EncodedLength.Statement (.flSe) := fun _ => rfl
theorem EncodedLength.flSeD7 : EncodedLength.Statement (.flSeD7) := fun _ => rfl
theorem EncodedLength.flRdid : EncodedLength.Statement (.flRdid) := fun _ => rfl
theorem EncodedLength.flAai : EncodedLength.Statement (.flAai) := fun _ => rfl
theorem EncodedLength.flUnrecognised (v : Byte) : EncodedLength.Statement (.flUnrecognised v) := fun _ => rfl
theorem EncodedLength.acpiGetIndex (v : Byte) : EncodedLength.Statement (.acpiGetIndex v) := fun _ => rfl
theorem EncodedLength.acpiSetIndex (v : Byte) : EncodedLength.Statement (.acpiSetIndex v) := fun _ => rfl
theorem EncodedLength.acpiSetValue (v : Byte) : EncodedLength.Statement (.acpiSetValue v) := fun _ => rfl
theorem EncodedLength.flStatusData (v : Byte) : EncodedLength.Statement (.flStatusData v) := fun _ => rfl
theorem EncodedLength.flAddrSe (v : Byte) : EncodedLength.Statement (.flAddrSe v) := fun _ => rfl
theorem EncodedLength.flAddrHs (v : Byte) : EncodedLength.Statement (.flAddrHs v) := fun _ => rfl
theorem EncodedLength.flAaiData (v : Byte) : EncodedLength.Statement (.flAaiData v) := fun _ => rfl
theorem EncodedLength.ecDataIgnored (v : Byte) : EncodedLength.Statement (.ecDataIgnored v) := fun _ => rfl
theorem EncodedLength.flDataIgnored (v : Byte) : EncodedLength.Statement (.flDataIgnored v) := fun _ => rfl
theorem EncodedLength.acpiRecB1 (d1 d2 d3 d4 d5 : Byte) : EncodedLength.Statement (.acpiRecB1 d1 d2 d3 d4 d5) := fun _ => rfl
theorem EncodedLength.bypInit : EncodedLength.Statement (.bypInit) := fun _ => rfl
theorem EncodedLength.bypRead (port : Byte) : EncodedLength.Statement (.bypRead port) := fun _ => rfl
theorem EncodedLength.bypWrite (port value : Byte) : EncodedLength.Statement (.bypWrite port value) := fun _ => rfl

end Sys2Proof.Laws
end

