-- ==== Sys2Proof/Laws/Step.lean ====
section
/-! SUPPORT. What a step can do, said once; and how bytes, transactions and accesses agree. -/

namespace Sys2Proof.Machine

@[simp] theorem Transaction.access_transaction? (t : Transaction) : t.access.transaction? = some t := by
  cases t <;> rfl

/-- The request bytes of a transaction decode as the transaction does. -/
theorem decode_request (k : DecodeContext) (t : Transaction) :
    decode k t.request.bytes = .ok (decodeTransaction k t) := by
  cases t <;> simp [Transaction.request, PeerRequest.bytes, decode, decodeRequest]

/-- A fetched instruction is the handshake, or the transaction at the head of the queue as it is decoded. -/
theorem fetch_run {s : State} {i : Instr} (h : fetch s = .run i) :
    (s.bus.started = false ∧ i = .bypInit) ∨
    (s.bus.started = true ∧ ∃ a rest t, s.bus.pending = a :: rest ∧ a.transaction? = some t ∧
      i = decodeTransaction s.decodeContext t) := by
  unfold fetch at h
  cases hs : s.bus.started with
  | false => simp [hs] at h; exact .inl ⟨rfl, h.symm⟩
  | true =>
    rw [hs, if_pos rfl] at h
    cases hp : s.bus.pending with
    | nil => simp [hp] at h
    | cons a rest =>
      simp only [hp, fetchAccess] at h
      cases ht : a.transaction? with
      | none => simp [ht] at h
      | some t => simp [ht] at h; exact .inr ⟨rfl, a, rest, t, rfl, ht, h.symm⟩

/-- A step that answers: nothing was waiting; or one instruction ran; or the request to the peer ran, the bypass failed
under it, and the same transaction ran by internal emulation. -/
theorem step_cases {s t : State} (h : step s = .next t) :
    (fetch s = .nothing ∧ t = s) ∨
    (∃ i, fetch s = .run i ∧ exec i s = .next t ∧ bypassFailed s t = false) ∨
    (∃ i u, fetch s = .run i ∧ exec i s = .next u ∧ bypassFailed s u = true ∧
      ((∃ j, fetch u = .run j ∧ exec j u = .next t) ∨ (fetch u = .nothing ∧ t = u))) := by
  unfold step stepWith at h
  cases hf : fetch s with
  | nothing => simp only [hf] at h; cases h; exact .inl ⟨rfl, rfl⟩
  | refuse r => simp [hf] at h
  | run i =>
    simp only [hf] at h
    cases he : exec i s with
    | fault f => simp [he, afterRun] at h
    | refused r => simp [he, afterRun] at h
    | next u =>
      simp only [he, afterRun] at h
      cases hb : bypassFailed s u with
      | false => simp [hb] at h; subst h; exact .inr (.inl ⟨i, rfl, he, hb⟩)
      | true =>
        rw [hb, if_pos rfl] at h
        refine .inr (.inr ⟨i, u, rfl, he, hb, ?_⟩)
        cases hg : fetch u with
        | nothing => simp only [hg] at h; cases h; exact .inr ⟨rfl, rfl⟩
        | refuse r => simp [hg] at h
        | run j => exact .inl ⟨j, rfl, by simpa [hg] using h⟩

/-- A run of one step more, from a step that answers. -/
theorem runs_succ {n : Nat} {s u : State} (h : step s = .next u) : runs (n + 1) s = runs n u := by
  have h' : Sys2Proof.core.step s = .next u := h
  exact (Host.Core.run.eq_2 Sys2Proof.core s n).trans (by rw [h'])

/-- A run of one step more that answers has a step that answers. -/
theorem runs_succ_next {n : Nat} {s t : State} (h : runs (n + 1) s = .next t) :
    ∃ u, step s = .next u ∧ runs n u = .next t := by
  have hr := Host.Core.run.eq_2 Sys2Proof.core s n
  cases hs : step s with
  | next u => exact ⟨u, rfl, by rwa [runs_succ hs] at h⟩
  | fault f =>
    have h' : Sys2Proof.core.step s = .fault f := hs
    rw [h'] at hr
    cases hr.symm.trans h
  | refused r =>
    have h' : Sys2Proof.core.step s = .refused r := hs
    rw [h'] at hr
    cases hr.symm.trans h

/-- A row of internal emulation completes its transaction: it leaves a device, with `bypass_active` as it was, and a
result, and touches nothing else of the machine (30_encoding.md R60). -/
theorem exec_internal_done {i : Instr} (h1 : i.format ≠ .acpiRecord) (h2 : i.format ≠ .bypassRequest) (s : State) :
    ∃ d r, exec i s = .next (s.done d r) ∧ d.bypassActive = s.dev.bypassActive := by
  cases i
  case portUnsupported t => cases t <;> exact ⟨_, _, rfl, rfl⟩
  case ecRdata => exact ⟨_, _, rfl, Device.autoStage_bypassActive _ _⟩
  case spiWritePhase => exact ⟨_, _, rfl, writePhase_bypassActive _⟩
  case spiReadPhase => exact ⟨_, _, rfl, readPhase_bypassActive _ _⟩
  case flAddrSe v =>
    show ∃ d r, execFlAddrSe v s = _ ∧ _
    unfold execFlAddrSe
    split_ifs <;> exact ⟨_, _, rfl, Device.takeAddressByte_bypassActive _ _⟩
  case flAddrHs v =>
    show ∃ d r, execFlAddrHs v s = _ ∧ _
    unfold execFlAddrHs
    split_ifs
    · exact ⟨_, _, rfl, rfl⟩
    · exact ⟨_, _, rfl, Device.takeAddressByte_bypassActive _ _⟩
  case acpiRecB1 => exact absurd rfl h1
  case bypInit => exact absurd rfl h2
  case bypRead => exact absurd rfl h2
  case bypWrite => exact absurd rfl h2
  all_goals exact ⟨_, _, rfl, rfl⟩

end Sys2Proof.Machine
end

