-- ==== Sys2Proof/Tests/Slice0.lean ====
section
/-! SUPPORT. Tests: ill-formed terms refused, words written out from the spec's encodings, one step of each instruction with
its result from spec/95_test_vectors.md (vector named beside it) or worked by hand from the rule named, and for each
obligation that has hypotheses a state and operands that meet them. All under the reference configuration. -/

open Sys2Proof Sys2Proof.Machine

namespace Sys2Proof.Tests

/-- The state after reset in a protocol state, with transactions waiting. -/
def live (p : ProtocolState) (ts : List Transaction) : State :=
  { State.reset with
    dev := { State.reset.dev with protocolState := p }
    bus := { State.reset.bus with pending := ts.map Transaction.access } }

/-- A state whose device is changed by hand. -/
def tweak (s : State) (f : Device → Device) : State := { s with dev := f s.dev }

/-- The state after reset with the bypass active, the peer's answers, and transactions waiting. -/
def bypassed (answers : List PeerAnswer) (ts : List Transaction) : State :=
  { live .idle ts with
    dev := { State.reset.dev with bypassActive := true }
    bus := { (live .idle ts).bus with peerAnswers := answers } }

/-- The state after a step that answers. -/
def after (s : State) : Option State :=
  match step s with
  | .next t => some t
  | .fault _ => none
  | .refused _ => none

/-- One field of the state after a step. -/
def afterField {α : Type} (s : State) (f : State → α) : Option α := (after s).map f

/-- The EC data and command ports of the reference configuration. -/
def portD : Byte := 0x62
def portC : Byte := 0x66

/-- A decode context of the reference configuration. -/
def ctx (p : ProtocolState) : DecodeContext := { cfg := Config.reference, bypassActive := false, protocolState := p }

/-- The same with the bypass active. -/
def ctxBypass : DecodeContext := { cfg := Config.reference, bypassActive := true, protocolState := .idle }

/-- The record window as it stands before the trigger of vector V-ACPI-5. -/
def windowV5 : Memory := { cells := [(0x10, 0x05), (0xE5, 0x80), (0xF9, 0x20), (0xFA, 0x02)], canonical := rfl }

/-! WellFormed: an ill-formed term for each check. -/

theorem test_reference_wellFormed : Config.reference.WellFormed := by decide
theorem test_reject_equal_ports : ¬ { Config.reference with portEcData := 0x66 }.WellFormed := by decide
theorem test_reject_long_string : IdString.wf (List.replicate 16 0x41) = false := by decide
theorem test_reject_zero_in_string : IdString.wf [0x31, 0x00] = false := by decide
theorem test_reject_equal_sio_indices : ¬ { Config.reference with sioIdIndexB := 0x20 }.WellFormed := by decide
theorem test_accept_string_bounds : IdString.wf (List.replicate 15 0x41) = true ∧ IdString.wf [] = true := by decide
theorem test_reject_unsupported_real_port :
    Instr.wellFormed Config.reference (.portUnsupported (.read 0x62)) = false := by decide
theorem test_reject_unrecognised_ec_80 : Instr.wellFormed Config.reference (.ecUnrecognised 0x80) = false := by decide
theorem test_reject_unrecognised_control_01 : Instr.wellFormed Config.reference (.spiUnrecognised 0x01) = false := by decide
theorem test_reject_unrecognised_opcode_AD : Instr.wellFormed Config.reference (.flUnrecognised 0xAD) = false := by decide
theorem test_reject_row_of_another_state : Instr.selectedBy (ctx .idle) (.spiCommand) = false := by decide
theorem test_reject_memory_unsorted : Memory.wf [(0x20, 0x01), (0x10, 0x01)] = false := by decide
theorem test_reject_memory_repeat : Memory.wf [(0x20, 0x01), (0x20, 0x02)] = false := by decide
theorem test_reject_memory_zero_entry : Memory.wf [(0x20, 0x00)] = false := by decide
theorem test_reject_memory_outside : Memory.wf [(0x100, 0x01)] = false := by decide

/-! Decoding: a word of every instruction, written out from spec/30_encoding.md. -/

theorem test_decode_transactions :
    decode (ctx .idle) [0x02, 0x2E, 0x5A] = .ok (.sioWaddr 0x5A) ∧ decode (ctx .idle) [0x01, 0x2E, 0x00] = .ok .sioRaddr ∧
    decode (ctx .idle) [0x02, 0x2F, 0x5A] = .ok (.sioWdata 0x5A) ∧ decode (ctx .idle) [0x01, 0x2F, 0x00] = .ok .sioRdata ∧
    decode (ctx .spiFollow) [0x01, 0x66, 0x00] = .ok .ecRstatus ∧ decode (ctx .spiFollow) [0x01, 0x62, 0x00] = .ok .ecRdata ∧
    decode (ctx .idle) [0x01, 0x70, 0x00] = .ok (.portUnsupported (.read 0x70)) ∧
    decode (ctx .idle) [0x02, 0x63, 0x80] = .ok (.portUnsupported (.write 0x63 0x80)) := by decide

theorem test_decode_ec_commands :
    decode (ctx .idle) [0x02, 0x66, 0x80] = .ok .ecGetAcpi ∧ decode (ctx .idle) [0x02, 0x66, 0x81] = .ok .ecSetAcpi ∧
    decode (ctx .idle) [0x02, 0x66, 0x92] = .ok .ecGetProject ∧ decode (ctx .getAcpi) [0x02, 0x66, 0x93] = .ok .ecGetVersion ∧
    decode (ctx .setAcpi) [0x02, 0x66, 0x01] = .ok .ecSpiFollow ∧ decode (ctx .setAcpiIndex) [0x02, 0x66, 0xDC] = .ok .ecVendorDc ∧
    decode (ctx .getProject) [0x02, 0x66, 0xDE] = .ok .ecVendorDe ∧ decode (ctx .getVersion) [0x02, 0x66, 0xF0] = .ok .ecVendorF0 ∧
    decode (ctx .idle) [0x02, 0x66, 0x02] = .ok (.ecUnrecognised 0x02) := by decide

theorem test_decode_control_bytes :
    decode (ctx .spiCommand) [0x02, 0x66, 0x01] = .ok .spiFollow ∧ decode (ctx .spiFollow) [0x02, 0x66, 0x02] = .ok .spiCommand ∧
    decode (ctx .spiHsRead) [0x02, 0x66, 0x03] = .ok .spiWritePhase ∧
    decode (ctx .spiReadJedec) [0x02, 0x66, 0x04] = .ok .spiReadPhase ∧
    decode (ctx .spiAaiProgram) [0x02, 0x66, 0x05] = .ok .spiUnfollow ∧
    decode (ctx .spiFollow) [0x02, 0x66, 0x80] = .ok (.spiUnrecognised 0x80) := by decide

theorem test_decode_flash_opcodes :
    decode (ctx .spiCommand) [0x02, 0x62, 0x01] = .ok .flWrsr ∧ decode (ctx .spiCommand) [0x02, 0x62, 0x04] = .ok .flWrdi ∧
    decode (ctx .spiCommand) [0x02, 0x62, 0x05] = .ok .flRdsr ∧ decode (ctx .spiCommand) [0x02, 0x62, 0x06] = .ok .flWren ∧
    decode (ctx .spiCommand) [0x02, 0x62, 0x0B] = .ok .flHsread ∧ decode (ctx .spiCommand) [0x02, 0x62, 0x20] = .ok .flSe ∧
    decode (ctx .spiCommand) [0x02, 0x62, 0xD7] = .ok .flSeD7 ∧ decode (ctx .spiCommand) [0x02, 0x62, 0x9F] = .ok .flRdid ∧
    decode (ctx .spiCommand) [0x02, 0x62, 0xAD] = .ok .flAai ∧
    decode (ctx .spiCommand) [0x02, 0x62, 0x03] = .ok (.flUnrecognised 0x03) := by decide

theorem test_decode_data_phases :
    decode (ctx .getAcpi) [0x02, 0x62, 0x10] = .ok (.acpiGetIndex 0x10) ∧
    decode (ctx .setAcpi) [0x02, 0x62, 0xF8] = .ok (.acpiSetIndex 0xF8) ∧
    decode (ctx .setAcpiIndex) [0x02, 0x62, 0xB1] = .ok (.acpiSetValue 0xB1) ∧
    decode (ctx .spiWriteStatusData) [0x02, 0x62, 0x9C] = .ok (.flStatusData 0x9C) ∧
    decode (ctx .spiSectorEraseAddress) [0x02, 0x62, 0x78] = .ok (.flAddrSe 0x78) ∧
    decode (ctx .spiHsReadAddress) [0x02, 0x62, 0xEE] = .ok (.flAddrHs 0xEE) ∧
    decode (ctx .spiAaiProgram) [0x02, 0x62, 0xAA] = .ok (.flAaiData 0xAA) ∧
    decode (ctx .getProject) [0x02, 0x62, 0x77] = .ok (.ecDataIgnored 0x77) ∧
    decode (ctx .spiSectorErase) [0x02, 0x62, 0x78] = .ok (.flDataIgnored 0x78) := by decide

theorem test_decode_record_and_requests :
    decode (ctx .idle) [0xB1, 0x20, 0x02, 0x00, 0x33, 0x44] = .ok (.acpiRecB1 0x20 0x02 0x00 0x33 0x44) ∧
    decode (ctx .idle) [0x00, 0x00, 0x00] = .ok .bypInit ∧ decode ctxBypass [0x01, 0x70, 0x00] = .ok (.bypRead 0x70) ∧
    decode ctxBypass [0x02, 0x66, 0xDC] = .ok (.bypWrite 0x66 0xDC) := by decide

theorem test_decode_rejects :
    decode (ctx .idle) [] = .error (.wrongLength 0) ∧ decode (ctx .idle) [0x02, 0x66] = .error (.wrongLength 2) ∧
    decode (ctx .idle) [0x03, 0x66, 0x00] = .error (.unknownKind 0x03) ∧
    decode (ctx .idle) [0x00, 0x00, 0x01] = .error (.initOperandsNotZero 0x00 0x01) ∧
    decode (ctx .idle) [0x01, 0x66, 0x01] = .error (.readValueNotZero 0x01) ∧
    decode (ctx .idle) [0xB0, 0x20, 0x02, 0x00, 0x00, 0x00] = .error (.unrecognisedRecord 0xB0) := by decide

theorem test_table_words :
    decodeTableWord 8 0x2E = some (.sioWaddr 0x00) ∧ decodeTableWord 8 0x66 = some .ecRstatus ∧
    decodeTableWord 8 0x92 = some .ecGetProject ∧ decodeTableWord 8 0x03 = some .spiWritePhase ∧
    decodeTableWord 8 0x9F = some .flRdid ∧ decodeTableWord 8 0xB1 = some (.acpiRecB1 0x00 0x00 0x00 0x00 0x00) ∧
    decodeTableWord 8 0x00 = some .bypInit ∧ decodeTableWord 24 0xDC6602 = some .ecVendorDc := by decide

theorem test_fetch_word_flash_opcode :
    fetch (State.reset.withFetchWord 8 0x9F) = .run .flRdid ∧
    afterField (State.reset.withFetchWord 8 0x9F) (fun t => t.dev.protocolState) = some .spiReadJedec := by decide

theorem test_fetch_word_record_trigger :
    afterField (State.reset.withFetchWord 8 0xB1) (fun t => t.dev.acpiSpace.read 0xF8) = some 0xB1 := by decide

/-! One step of each instruction. -/

/-- V-SIO-2. -/
theorem test_sioWaddr_latches : afterField (live .idle [.write 0x2E 0x20]) (fun t => t.dev.superioAddress) = some 0x20 := by decide
/-- V-SIO-1. -/
theorem test_sioRaddr_returns_selector :
    afterField (tweak (live .idle [.read 0x2E]) (fun d => { d with superioAddress := 0x7F })) (fun t => t.bus.result) =
      some (some 0x7F) := by decide
/-- V-SIO-3: an identification register is writable, and storing `0x00` removes its entry. -/
theorem test_sioWdata_overwrites_preset :
    afterField (tweak (live .idle [.write 0x2F 0x00]) (fun d => { d with superioAddress := 0x20 }))
      (fun t => t.dev.superioRegisters.cells) = some [(0x21, 0x87)] := by decide
/-- V-SIO-2. -/
theorem test_sioRdata_reads_preset :
    afterField (tweak (live .idle [.read 0x2F]) (fun d => { d with superioAddress := 0x21 })) (fun t => t.bus.result) =
      some (some 0x87) := by decide
/-- V-EC-4: the ready flag is read and nothing changes. -/
theorem test_ecRstatus_reads_ready :
    afterField (tweak (live .idle [.read portC]) (fun d => { d with commandRegister := 0x01, dataRegister := 0x33 }))
      (fun t => (t.bus.result, t.dev.commandRegister, t.dev.dataRegister)) = some (some 0x01, 0x01, 0x33) := by decide
/-- S3, first character. -/
theorem test_ecRdata_first_character :
    afterField (live .getProject [.read portD]) (fun t => (t.bus.result, t.dev.projectCursor, t.dev.commandRegister)) =
      some (some 0x4D, 1, 0x00) := by decide
/-- S3, the terminator. -/
theorem test_ecRdata_terminator :
    afterField (tweak (live .getProject [.read portD]) (fun d => { d with projectCursor := 5 }))
      (fun t => (t.bus.result, t.dev.projectCursor, t.dev.protocolState)) = some (some 0x24, 5, .idle) := by decide
/-- V-PORT-1. -/
theorem test_portUnsupported_read : afterField (live .idle [.read 0x70]) (fun t => t.bus.result) = some (some 0x00) := by decide
/-- V-PORT-2: a neighbouring port is no alias. -/
theorem test_portUnsupported_write :
    afterField (live .idle [.write 0x63 0x80]) (fun t => (t.bus.result, t.dev)) = some (none, (live .idle []).dev) := by decide

theorem test_ecGetAcpi : afterField (live .idle [.write portC 0x80]) (fun t => t.dev.protocolState) = some .getAcpi := by decide
theorem test_ecSetAcpi : afterField (live .idle [.write portC 0x81]) (fun t => t.dev.protocolState) = some .setAcpi := by decide
/-- S3, the re-trigger; V-EC-9: only its own cursor. -/
theorem test_ecGetProject_restarts :
    afterField (tweak (live .getProject [.write portC 0x92]) (fun d => { d with projectCursor := 2, versionCursor := 1 }))
      (fun t => (t.dev.protocolState, t.dev.projectCursor, t.dev.versionCursor)) = some (.getProject, 0, 1) := by decide
theorem test_ecGetVersion_restarts :
    afterField (tweak (live .getProject [.write portC 0x93]) (fun d => { d with projectCursor := 2, versionCursor := 1 }))
      (fun t => (t.dev.protocolState, t.dev.projectCursor, t.dev.versionCursor)) = some (.getVersion, 2, 0) := by decide
/-- V-EC-12. -/
theorem test_ecSpiFollow : afterField (live .getAcpi [.write portC 0x01]) (fun t => t.dev.protocolState) = some .spiFollow := by decide
/-- V-EC-14: a second query overwrites. -/
theorem test_ecVendorDc_stages :
    afterField (tweak (live .setAcpi [.write portC 0xDC]) (fun d => { d with commandRegister := 0x01, dataRegister := 0x80 }))
      (fun t => (t.dev.dataRegister, t.dev.commandRegister, t.dev.protocolState)) = some (0x33, 0x01, .idle) := by decide
/-- V-EC-17: a staged byte survives. -/
theorem test_ecVendorDe_keeps_staged :
    afterField (tweak (live .setAcpi [.write portC 0xDE]) (fun d => { d with commandRegister := 0x01, dataRegister := 0x33 }))
      (fun t => (t.dev.dataRegister, t.dev.commandRegister, t.dev.protocolState)) = some (0x33, 0x01, .idle) := by decide
/-- V-EC-6. -/
theorem test_ecVendorF0 : afterField (live .getProject [.write portC 0xF0]) (fun t => t.dev.protocolState) = some .idle := by decide
/-- V-EC-16. -/
theorem test_ecUnrecognised_keeps_readout :
    afterField (live .getVersion [.write portC 0x94]) (fun t => t.dev) = some (live .getVersion []).dev := by decide

/-- V-CTL-6: the accumulator is abandoned, not latched. -/
theorem test_spiFollow_keeps_accumulator :
    afterField (tweak (live .spiSectorEraseAddress [.write portC 0x01])
        (fun d => { d with spiAddressBytes := #v[0, 0, 0, 0x78], spiAddressRemaining := 2 }))
      (fun t => (t.dev.protocolState, t.dev.spiAddressBytes, t.dev.spiAddressRemaining)) =
      some (.spiFollow, #v[0, 0, 0, 0x78], 2) := by decide
theorem test_spiCommand : afterField (live .spiReadJedec [.write portC 0x02]) (fun t => t.dev.protocolState) = some .spiCommand := by decide
/-- V-FL-14: a new address phase, the latch unchanged. -/
theorem test_spiWritePhase_resets_accumulator :
    afterField (tweak (live .spiSectorErase [.write portC 0x03])
        (fun d => { d with spiAddressRemaining := 0, spiAddressComplete := true, spiAddress := 0x12345678 }))
      (fun t => (t.dev.protocolState, t.dev.spiAddressRemaining, t.dev.spiAddressComplete, t.dev.spiAddress)) =
      some (.spiSectorEraseAddress, 3, false, 0x12345678) := by decide
/-- V-CTL-2: no operation pending. -/
theorem test_spiWritePhase_noop :
    afterField (live .spiFollow [.write portC 0x03]) (fun t => t.dev) = some (live .spiFollow []).dev := by decide
/-- S6, the last ID byte. -/
theorem test_spiReadPhase_last_id_byte :
    afterField (tweak (live .spiReadJedec [.write portC 0x04]) (fun d => { d with spiJedecCursor := 3 }))
      (fun t => (t.dev.dataRegister, t.dev.commandRegister, t.dev.spiJedecCursor)) = some (0xD4, 0x01, 4) := by decide
/-- V-CTL-8: nothing before the dummy byte. -/
theorem test_spiReadPhase_before_dummy :
    afterField (live .spiHsReadAddress [.write portC 0x04]) (fun t => t.dev.commandRegister) = some 0x00 := by decide
/-- V-CTL-7. -/
theorem test_spiUnfollow_keeps_latch :
    afterField (tweak (live .spiFollow [.write portC 0x05]) (fun d => { d with spiStatus := 0x02 }))
      (fun t => (t.dev.protocolState, t.dev.spiStatus)) = some (.idle, 0x02) := by decide
/-- V-CTL-12. -/
theorem test_spiUnrecognised :
    afterField (live .spiFollow [.write portC 0xDC]) (fun t => t.dev) = some (live .spiFollow []).dev := by decide

theorem test_flWrsr : afterField (live .spiCommand [.write portD 0x01]) (fun t => t.dev.protocolState) = some .spiWriteStatus := by decide
/-- V-FL-4. -/
theorem test_flWrdi_clears_bit_1 :
    afterField (tweak (live .spiCommand [.write portD 0x04]) (fun d => { d with spiStatus := 0xFF }))
      (fun t => (t.dev.spiStatus, t.dev.protocolState)) = some (0xFD, .spiFollow) := by decide
theorem test_flRdsr : afterField (live .spiCommand [.write portD 0x05]) (fun t => t.dev.protocolState) = some .spiReadStatus := by decide
/-- V-FL-3. -/
theorem test_flWren_sets_bit_1 :
    afterField (tweak (live .spiCommand [.write portD 0x06]) (fun d => { d with spiStatus := 0x9C }))
      (fun t => (t.dev.spiStatus, t.dev.protocolState)) = some (0x9E, .spiFollow) := by decide
theorem test_flHsread :
    afterField (tweak (live .spiCommand [.write portD 0x0B]) (fun d => { d with spiAddressRemaining := 1 }))
      (fun t => (t.dev.protocolState, t.dev.spiAddressRemaining)) = some (.spiHsRead, 3) := by decide
theorem test_flSe :
    afterField (tweak (live .spiCommand [.write portD 0x20]) (fun d => { d with spiAddressBytes := #v[0x12, 0x34, 0x56, 0x78] }))
      (fun t => (t.dev.protocolState, t.dev.spiAddressBytes)) = some (.spiSectorErase, #v[0, 0, 0, 0]) := by decide
theorem test_flSeD7 : afterField (live .spiCommand [.write portD 0xD7]) (fun t => t.dev.protocolState) = some .spiSectorErase := by decide
/-- V-CTL-11. -/
theorem test_flRdid_restarts :
    afterField (tweak (live .spiCommand [.write portD 0x9F]) (fun d => { d with spiJedecCursor := 2 }))
      (fun t => (t.dev.protocolState, t.dev.spiJedecCursor)) = some (.spiReadJedec, 0) := by decide
theorem test_flAai : afterField (live .spiCommand [.write portD 0xAD]) (fun t => t.dev.protocolState) = some .spiAaiProgram := by decide
/-- V-FL-7. -/
theorem test_flUnrecognised :
    afterField (live .spiCommand [.write portD 0x03]) (fun t => t.dev) = some (live .spiCommand []).dev := by decide

/-- V-ACPI-1. -/
theorem test_acpiGetIndex_stages :
    afterField (live .getAcpi [.write portD 0x10]) (fun t => (t.dev.dataRegister, t.dev.commandRegister, t.dev.protocolState)) =
      some (0x05, 0x01, .idle) := by decide
theorem test_acpiSetIndex_captures :
    afterField (live .setAcpi [.write portD 0x42]) (fun t => (t.dev.acpiIndex, t.dev.protocolState)) =
      some (0x42, .setAcpiIndex) := by decide
/-- V-ACPI-5. -/
theorem test_acpiSetValue_answers_record :
    afterField (tweak (live .setAcpiIndex [.write portD 0xB1]) (fun d => { d with acpiSpace := windowV5, acpiIndex := 0xF8 }))
      (fun t => t.dev.acpiSpace.cells) = some [(0x10, 0x05), (0xE5, 0x80), (0xF8, 0xB1), (0xF9, 0x06), (0xFA, 0x02)] := by decide
/-- V-ACPI-8: an unknown command is stored and nothing else happens. -/
theorem test_acpiSetValue_unknown_command :
    afterField (tweak (live .setAcpiIndex [.write portD 0xB0]) (fun d => { d with acpiSpace := windowV5, acpiIndex := 0xF8 }))
      (fun t => t.dev.acpiSpace.cells) = some [(0x10, 0x05), (0xE5, 0x80), (0xF8, 0xB0), (0xF9, 0x20), (0xFA, 0x02)] := by decide
/-- V-ACPI-9: an unknown address answers `0x00`. -/
theorem test_acpiRecB1_unknown_address :
    exec (.acpiRecB1 0x20 0x03 0x00 0x00 0x00) (live .idle []) =
      .next (tweak (live .idle []) (fun d => { d with
        acpiSpace := { cells := [(0x10, 0x05), (0xE5, 0x80), (0xF8, 0xB1), (0xFA, 0x03)], canonical := rfl } })) := rfl
/-- V-ACPI-7: the qualifier is not zero. -/
theorem test_acpiRecB1_qualifier :
    exec (.acpiRecB1 0x20 0x02 0x01 0x00 0x00) (live .idle []) =
      .next (tweak (live .idle []) (fun d => { d with
        acpiSpace := { cells := [(0x10, 0x05), (0xE5, 0x80), (0xF8, 0xB1), (0xF9, 0x20), (0xFA, 0x02), (0xFB, 0x01)]
                       canonical := rfl } })) := rfl
/-- V-FL-2. -/
theorem test_flStatusData_unmasked :
    afterField (live .spiWriteStatusData [.write portD 0x9C]) (fun t => (t.dev.spiStatus, t.dev.protocolState)) =
      some (0x9C, .spiWriteStatus) := by decide
/-- S4, the first byte. -/
theorem test_flAddrSe_first_byte :
    afterField (live .spiSectorEraseAddress [.write portD 0x78])
      (fun t => (t.dev.spiAddressBytes, t.dev.spiAddressRemaining, t.dev.protocolState)) =
      some (#v[0, 0, 0, 0x78], 2, .spiSectorEraseAddress) := by decide
/-- S4, the fourth byte. -/
theorem test_flAddrSe_fourth_byte :
    afterField (tweak (live .spiSectorEraseAddress [.write portD 0x12])
        (fun d => { d with spiAddressBytes := #v[0, 0x34, 0x56, 0x78], spiAddressRemaining := 0 }))
      (fun t => (t.dev.spiAddress, t.dev.spiAddressComplete, t.dev.protocolState)) =
      some (0x12345678, true, .spiFollow) := by decide
/-- V-FL-15, the fourth byte. -/
theorem test_flAddrHs_fourth_byte :
    afterField (tweak (live .spiHsReadAddress [.write portD 0x04])
        (fun d => { d with spiAddressBytes := #v[0, 0x03, 0x02, 0x01], spiAddressRemaining := 0 }))
      (fun t => (t.dev.spiAddress, t.dev.spiAddressComplete, t.dev.protocolState)) =
      some (0x04030201, true, .spiHsReadAddress) := by decide
/-- V-FL-15, the dummy byte. -/
theorem test_flAddrHs_dummy_byte :
    afterField (tweak (live .spiHsReadAddress [.write portD 0x05])
        (fun d => { d with spiAddressRemaining := 0, spiAddressComplete := true, spiAddress := 0x04030201 }))
      (fun t => (t.dev.spiAddress, t.dev.spiAddressBytes, t.dev.protocolState)) =
      some (0x04030201, #v[0, 0, 0, 0], .spiHsReadData) := by decide
/-- V-FL-8. -/
theorem test_flAaiData_ignored :
    afterField (live .spiAaiProgram [.write portD 0xAA]) (fun t => t.dev) = some (live .spiAaiProgram []).dev := by decide
/-- V-EC-7. -/
theorem test_ecDataIgnored :
    afterField (live .getProject [.write portD 0x77]) (fun t => t.dev) = some (live .getProject []).dev := by decide
/-- V-FL-9: the operand before the write phase is lost. -/
theorem test_flDataIgnored :
    afterField (live .spiSectorErase [.write portD 0x78]) (fun t => t.dev) = some (live .spiSectorErase []).dev := by decide

/-- 40_bypass.md R84: the handshake that succeeds sends `00 00 00`. -/
theorem test_bypInit_handshake :
    afterField (State.powerOn { Config.reference with bypassInit := true })
      (fun t => (t.dev.bypassActive, t.bus.started, t.bus.wire.map PeerRequest.bytes)) =
      some (true, true, [[0x00, 0x00, 0x00]]) := by decide
/-- V-BYP-1. -/
theorem test_bypRead_returns_reply :
    afterField (bypassed [.reply 0x5A] [.read portC])
      (fun t => (t.bus.result, t.dev.bypassActive, t.bus.wire.map PeerRequest.bytes)) =
      some (some 0x5A, true, [[0x01, 0x66, 0x00]]) := by decide
/-- S7, transaction 2: the failing transaction is done internally in the same step. -/
theorem test_bypRead_falls_back :
    afterField (bypassed [.failure] [.read portC]) (fun t => (t.bus.result, t.dev.bypassActive, t.bus.pending)) =
      some (some 0x00, false, []) := by decide
/-- V-BYP-3. -/
theorem test_bypWrite_discards_reply :
    afterField (bypassed [.reply 0x77] [.write portC 0x80])
      (fun t => (t.bus.result, t.dev.protocolState, t.bus.wire.map PeerRequest.bytes)) =
      some (none, .idle, [[0x02, 0x66, 0x80]]) := by decide
/-- V-BYP-7. -/
theorem test_bypWrite_falls_back :
    afterField (bypassed [.failure] [.write portC 0xDC]) (fun t => (t.dev.dataRegister, t.dev.commandRegister, t.dev.bypassActive)) =
      some (0x33, 0x01, false) := by decide
/-- 40_bypass.md R86: a peer that never answers. -/
theorem test_peer_never_answers : step (bypassed [] [.read portC]) = .fault .peerNeverAnswers := rfl
/-- 92_eei_decisions.md D20. -/
theorem test_wide_access_refused :
    step { State.reset with bus := { State.reset.bus with pending := [.read 0x62 2] } } = .refused .accessNotOneByte := rfl

/-! Witnesses: for each obligation with hypotheses, a state and operands that meet them, clause by clause. -/

theorem witness_DecodeEncodeRoundTrip :
    Config.reference.WellFormed ∧
    Instr.wellFormed Config.reference (.acpiSetValue 0xFF) = true ∧ Instr.selectedBy (ctx .setAcpiIndex) (.acpiSetValue 0xFF) = true ∧
    Instr.wellFormed Config.reference (.ecUnrecognised 0x00) = true ∧ Instr.selectedBy (ctx .idle) (.ecUnrecognised 0x00) = true ∧
    Instr.wellFormed Config.reference (.bypWrite 0xFF 0xFF) = true ∧ Instr.selectedBy ctxBypass (.bypWrite 0xFF 0xFF) = true := by
  decide

theorem witness_EncodeDecodeRoundTrip :
    (ctx .spiCommand).cfg.WellFormed ∧ decode (ctx .spiCommand) [0x02, 0x62, 0xFF] = .ok (.flUnrecognised 0xFF) := by decide

theorem witness_ExactlyOneRowApplies : (ctx .spiHsReadData).cfg.WellFormed ∧ (ctx .spiHsReadData).bypassActive = false := by decide

theorem witness_StepRunsDecodedInstruction :
    (live .idle [.write portC 0x80]).Emulating ∧
    (live .idle [.write portC 0x80]).bus.pending = (Transaction.write portC 0x80).access :: [] ∧
    decode (live .idle [.write portC 0x80]).decodeContext (Transaction.write portC 0x80).request.bytes = .ok .ecGetAcpi := by decide

theorem witness_BypassReplyCompletesTransaction :
    (bypassed [.reply 0xFF] [.read 0x00]).bus.started = true ∧ (bypassed [.reply 0xFF] [.read 0x00]).dev.bypassActive = true ∧
    (bypassed [.reply 0xFF] [.read 0x00]).bus.pending = (Transaction.read 0x00).access :: [] ∧
    (bypassed [.reply 0xFF] [.read 0x00]).bus.peerAnswers = .reply 0xFF :: [] := by decide

theorem witness_BypassFailureIsPermanent :
    (bypassed [.failure] [.read portC, .read portD]).bus.started = true ∧
    (bypassed [.failure] [.read portC, .read portD]).dev.bypassActive = true ∧
    (bypassed [.failure] [.read portC, .read portD]).bus.pending =
      (Transaction.read portC).access :: [(Transaction.read portD).access] ∧
    (bypassed [.failure] [.read portC, .read portD]).bus.peerAnswers = .failure :: [] ∧
    (∃ w, runs 1 (live .idle [.read portD]) = .next w) := ⟨rfl, rfl, rfl, rfl, _, rfl⟩

theorem witness_IdleStepChangesNothing : State.reset.bus.started = true ∧ State.reset.bus.pending = [] := by decide

theorem witness_WideAccessRefused :
    State.reset.bus.started = true ∧ (0 ≠ 1) ∧ (2 ≠ 1) ∧ ([] : List Byte).length ≠ 1 ∧ ([0x00, 0x00] : List Byte).length ≠ 1 ∧
    { State.reset.bus with pending := [.read 0x62 2] }.pending = HostAccess.read 0x62 2 :: [] ∧
    { State.reset.bus with pending := [.write 0x62 []] }.pending = HostAccess.write 0x62 [] :: [] := by decide

theorem witness_InternalRunsAreSafe :
    (live .idle [.read 0x70, .read portD]).Emulating ∧
    (live .idle [.read 0x70, .read portD]).bus.pending =
      ([.read 0x70, .read portD] : List Transaction).map Transaction.access := by decide

theorem witness_ResetValues : Config.reference.WellFormed := by decide

/-- A state in the middle of an address phase, with a byte staged, that meets every invariant. -/
def midErase : State :=
  tweak (live .spiSectorEraseAddress [.write portD 0x12]) (fun d => { d with
    commandRegister := 0x01, dataRegister := 0x33, projectCursor := 5, spiJedecCursor := 4
    spiAddressBytes := #v[0, 0x34, 0x56, 0x78], spiAddressRemaining := 0 })

theorem witness_StepKeepsInvariants : midErase.Inv ∧ ∃ t, step midErase = .next t :=
  ⟨⟨by decide, by decide, by decide, by decide, by decide, by decide, by decide, by decide, by decide, by decide, by decide⟩,
    _, rfl⟩

theorem witness_JedecCursorSaturates :
    (tweak (live .spiReadJedec [.write portC 0x04]) (fun d => { d with spiJedecCursor := 4 })).dev.spiJedecCursor ≤ 4 ∧
    ∃ t, step (tweak (live .spiReadJedec [.write portC 0x04]) (fun d => { d with spiJedecCursor := 4 })) = .next t :=
  ⟨by decide, _, rfl⟩

theorem witness_BypassNeverReactivated :
    (bypassed [.reply 0x00] [.read portC]).bus.started = true ∧
    ∃ t, step (bypassed [.reply 0x00] [.read portC]) = .next t ∧ t.dev.bypassActive = true := ⟨rfl, _, rfl, rfl⟩

theorem witness_DeviceUntouchedWhileBypassed :
    (bypassed [.reply 0x00, .reply 0x01] [.write portC 0x80, .read portC]).bus.started = true ∧
    ∃ t, runs 2 (bypassed [.reply 0x00, .reply 0x01] [.write portC 0x80, .read portC]) = .next t ∧ t.dev.bypassActive = true :=
  ⟨rfl, _, rfl, rfl⟩

theorem witness_HandshakeNeverRepeated :
    (bypassed [.reply 0x00] [.read portC]).bus.started = true ∧ ∃ t, runs 1 (bypassed [.reply 0x00] [.read portC]) = .next t :=
  ⟨rfl, _, rfl⟩

theorem witness_ConfigurationNeverWritten : ∃ t, step (live .idle [.write portC 0x92]) = .next t := ⟨_, rfl⟩

theorem witness_BypassRequestEffects :
    (live .idle []).dev.bypassActive = false ∧ (bypassed [.reply 0x00] []).dev.bypassActive = true ∧
    (bypassed [.reply 0x00] []).bus.peerAnswers = .reply 0x00 :: [] ∧
    (bypassed [.failure] []).bus.peerAnswers = .failure :: [] ∧ (bypassed [.failure] []).dev.bypassActive = true ∧ (bypassed [] []).bus.peerAnswers = [] ∧
    (bypassed [] []).dev.bypassActive = true := by decide

theorem witness_HandshakeSetsBypass :
    (State.powerOn { Config.reference with bypassInit := true }).cfg.bypassInit = true ∧
    (State.powerOn Config.reference).cfg.bypassInit = false := by decide

theorem witness_SuperIoAddressPort : (live .idle []).cfg.WellFormed ∧ (live .idle []).Emulating := by decide

theorem witness_SuperIoDataPort :
    (live .idle []).cfg.WellFormed ∧ (live .idle []).Emulating := by decide

theorem witness_SuperIoRoundTrip :
    let ts : List Transaction := [.write 0x2E 0xFF, .write 0x2F 0x00, .write 0x2E 0xFF, .read 0x2F]
    (live .spiFollow ts).cfg.WellFormed ∧ (live .spiFollow ts).Emulating ∧
    (live .spiFollow ts).bus.pending = ts.map Transaction.access ++ [] := by decide

theorem witness_SuperIoIndependent :
    (live .idle [.write portC 0x80]).Emulating ∧ (live .idle [.write portC 0x80]).bus.pending = (Transaction.write portC 0x80).access :: [] ∧
    (Transaction.write portC 0x80).port ≠ 0x2E ∧ (Transaction.write portC 0x80).port ≠ 0x2F ∧
    (live .idle [.write 0x2F 0x11]).Emulating ∧ (live .idle [.write 0x2F 0x11]).bus.pending = (Transaction.write 0x2F 0x11).access :: [] ∧
    (Transaction.write 0x2F 0x11).port = 0x2F ∧ (live .getProject []).dev.bypassActive = false := by decide

theorem witness_SuperIoIndependent_steps :
    (∃ u, step (live .idle [.write portC 0x80]) = .next u) ∧ ∃ u, step (live .idle [.write 0x2F 0x11]) = .next u :=
  ⟨⟨_, rfl⟩, _, rfl⟩

/-- The state before the trigger of vector V-ACPI-5. -/
def recordReady : State := tweak (live .setAcpiIndex []) (fun d => { d with acpiSpace := windowV5, acpiIndex := 0xF8 })

theorem witness_AcpiSetValueStores :
    (live .setAcpiIndex []).dev.acpiIndex ≠ 0xF8 ∧ recordReady.dev.acpiIndex = 0xF8 := by decide

theorem witness_RecordRunsInsideValueWrite :
    recordReady.dev.acpiIndex = 0xF8 ∧
    decode recordReady.decodeContext
        (([0xF8, 0xF9, 0xFA, 0xFB, 0xFC, 0xFD] : List Byte).map (recordReady.dev.acpiSpace.write 0xF8 0xB1).read) =
      .ok (.acpiRecB1 0x20 0x02 0x00 0x00 0x00) ∧
    decode recordReady.decodeContext
        (([0xF8, 0xF9, 0xFA, 0xFB, 0xFC, 0xFD] : List Byte).map (recordReady.dev.acpiSpace.write 0xF8 0xB0).read) =
      .error (.unrecognisedRecord 0xB0) := by decide

theorem witness_AcpiSpaceWriters :
    ∃ u, step (live .setAcpiIndex [.write portD 0x99]) = .next u ∧
      u.dev.acpiSpace.read 0x00 ≠ (live .setAcpiIndex [.write portD 0x99]).dev.acpiSpace.read 0x00 := ⟨_, rfl, by decide⟩

theorem witness_AcpiReadsBackWrite :
    let ts : List Transaction := [.write portC 0x81, .write portD 0xF8, .write portD 0xB1, .write portC 0x80, .write portD 0xF8,
      .read portD]
    (live .idle ts).cfg.WellFormed ∧ (live .idle ts).Emulating ∧
    (live .idle ts).dev.protocolState.isSpi = false ∧ (live .idle ts).bus.pending = ts.map Transaction.access ++ [] := by decide

theorem witness_CommandPortRead :
    midErase.cfg.WellFormed ∧ midErase.Emulating ∧ midErase.Inv ∧ obf midErase.dev.commandRegister = true :=
  ⟨by decide, by decide, witness_StepKeepsInvariants.1, by decide⟩

theorem reset_project_inv (n : Nat) (h : n ≤ 5) : (tweak (live .getProject []) (fun d => { d with projectCursor := n })).Inv :=
  ⟨.inl rfl, fun _ => rfl, h, Nat.zero_le _, Nat.zero_le _, nofun, nofun, nofun, nofun, Memory.canonical _, Memory.canonical _⟩

theorem reset_version_inv (n : Nat) (h : n ≤ 3) : (tweak (live .getVersion []) (fun d => { d with versionCursor := n })).Inv :=
  ⟨.inl rfl, fun _ => rfl, Nat.zero_le _, h, Nat.zero_le _, nofun, nofun, nofun, nofun, Memory.canonical _, Memory.canonical _⟩

theorem witness_DataPortReadReturnsStaged :
    obf midErase.dev.commandRegister = true ∧
    (live .idle []).dev.protocolState ≠ .getProject ∧ (live .idle []).dev.protocolState ≠ .getVersion ∧
    obf (live .idle []).dev.commandRegister = false := by decide

theorem witness_DataPortReadReturnsStaged_inv : (live .idle []).Inv :=
  ⟨by decide, by decide, by decide, by decide, by decide, by decide, by decide, by decide, by decide, by decide, by decide⟩

theorem witness_StringCharacterRead :
    obf State.reset.dev.commandRegister = false ∧
    (tweak (live .getProject []) (fun d => { d with projectCursor := 4 })).Inv ∧ 4 < Config.reference.projectString.chars.length ∧
    (tweak (live .getProject []) (fun d => { d with projectCursor := 5 })).Inv ∧ 5 = Config.reference.projectString.chars.length ∧
    (tweak (live .getVersion []) (fun d => { d with versionCursor := 2 })).Inv ∧ 2 < Config.reference.versionString.chars.length ∧
    (tweak (live .getVersion []) (fun d => { d with versionCursor := 3 })).Inv ∧ 3 = Config.reference.versionString.chars.length :=
  ⟨by decide, reset_project_inv 4 (by decide), by decide, reset_project_inv 5 (by decide), by decide,
    reset_version_inv 2 (by decide), by decide, reset_version_inv 3 (by decide), by decide⟩

theorem witness_StringReadout :
    let project := (Transaction.write portC 0x92) :: List.replicate 6 (Transaction.read portD)
    let version := (Transaction.write portC 0x93) :: List.replicate 4 (Transaction.read portD)
    (live .idle project).cfg.WellFormed ∧ (live .idle project).Emulating ∧ (live .idle project).dev.protocolState.isSpi = false ∧
    obf (live .idle project).dev.commandRegister = false ∧
    (live .idle project).bus.pending = (Transaction.write portC 0x92).access :: List.replicate 6 (Transaction.read portD).access ∧
    (live .idle version).bus.pending = (Transaction.write portC 0x93).access :: List.replicate 4 (Transaction.read portD).access := by
  decide

theorem witness_UnrecognisedEcCommandIgnored :
    (0x00 : Byte) ∉ ([0x80, 0x81, 0x92, 0x93, 0x01, 0xDC, 0xDE, 0xF0] : List Byte) ∧
    (0xFF : Byte) ∉ ([0x80, 0x81, 0x92, 0x93, 0x01, 0xDC, 0xDE, 0xF0] : List Byte) ∧
    (live .getVersion []).cfg.WellFormed ∧ (live .getVersion []).Emulating ∧
    (live .getVersion []).dev.protocolState.isSpi = false := by decide

theorem witness_ReadyFlagClearedOnlyByDataRead :
    ∃ u, step { midErase with bus := (live .idle [.read portD]).bus } = .next u ∧ obf midErase.dev.commandRegister = true ∧
      obf u.dev.commandRegister = false := ⟨_, rfl, by decide, by decide⟩

theorem witness_PlainReadsChangeNothing :
    (live .idle [.read 0xFF]).Emulating ∧ (0xFF : Byte) ≠ (live .idle [.read 0xFF]).cfg.portEcData ∧
    (live .idle [.read 0xFF]).bus.pending = (Transaction.read 0xFF).access :: [] := by decide

theorem witness_ProtocolStateChangers :
    (∃ u, step (live .idle [.write portC 0x80]) = .next u ∧ u.dev.protocolState ≠ .idle) ∧
    ∃ u, step (tweak (live .getVersion [.read portD]) (fun d => { d with versionCursor := 3 })) = .next u ∧
      u.dev.protocolState ≠ .getVersion := ⟨⟨_, rfl, by decide⟩, _, rfl, by decide⟩

theorem witness_RecoveryReachesIdle :
    let ts : List Transaction := [.write portC 0x05, .write portC 0xDE]
    (live .spiHsReadAddress ts).cfg.WellFormed ∧ (live .spiHsReadAddress ts).Emulating ∧
    (live .spiHsReadAddress ts).bus.pending = ts.map Transaction.access ++ [] := by decide

theorem witness_ControlBytesEnterStates :
    (live .spiAaiProgram []).cfg.WellFormed ∧ (live .spiAaiProgram []).Emulating ∧
    (live .spiAaiProgram []).dev.protocolState.isSpi = true := by decide

/-- It meets the hypotheses of `FlashOpcodesEnterStates`, `WriteEnableLatch` and `IdOpcodeRestarts`. -/
theorem witness_FlashOpcodesEnterStates :
    (live .spiCommand []).cfg.WellFormed ∧ (live .spiCommand []).Emulating ∧
    (live .spiCommand []).dev.protocolState = .spiCommand := by decide

theorem witness_FlashOpcodesEnterStates_aai :
    (live .spiAaiProgram []).cfg.WellFormed ∧ (live .spiAaiProgram []).Emulating ∧
    (live .spiAaiProgram [.write portC 0x05]).dev.protocolState = .spiAaiProgram ∧
    ∃ u, step (live .spiAaiProgram [.write portC 0x05]) = .next u ∧ u.dev.protocolState ≠ .spiAaiProgram :=
  ⟨by decide, by decide, rfl, _, rfl, by decide⟩

theorem witness_StatusWriteUnmasked :
    (live .spiWriteStatusData []).cfg.WellFormed ∧ (live .spiWriteStatusData []).Emulating ∧
    (live .spiWriteStatusData []).dev.protocolState = .spiWriteStatusData := by decide

theorem witness_WritePhaseOpens :
    (live .spiWriteStatus []).dev.protocolState = .spiWriteStatus ∧ (live .spiSectorErase []).dev.protocolState = .spiSectorErase ∧
    (live .spiHsRead []).dev.protocolState = .spiHsRead ∧
    (live .spiAaiProgram []).dev.protocolState ∉ ([.spiWriteStatus, .spiSectorErase, .spiHsRead] : List ProtocolState) := by decide

/-- The ID readout with its cursor somewhere. -/
def idCursor (n : Nat) : State := tweak (live .spiReadJedec []) (fun d => { d with spiJedecCursor := n })

theorem witness_ReadPhaseStages :
    (live .spiReadStatus []).dev.protocolState = .spiReadStatus ∧
    (idCursor 3).dev.protocolState = .spiReadJedec ∧ (idCursor 3).dev.spiJedecCursor < 4 ∧
    (idCursor 4).dev.protocolState = .spiReadJedec ∧ 4 ≤ (idCursor 4).dev.spiJedecCursor ∧
    (live .spiHsReadData []).dev.protocolState = .spiHsReadData ∧
    (live .spiAaiProgram []).dev.protocolState ∉ ([.spiReadStatus, .spiReadJedec, .spiHsReadData] : List ProtocolState) := by decide

theorem witness_JedecReadout :
    let ts : List Transaction := [.write portD 0x9F, .write portC 0x04, .read portD, .write portC 0x04, .read portD,
      .write portC 0x04, .read portD, .write portC 0x04, .read portD, .write portC 0x04, .read portD]
    (live .spiCommand ts).cfg.WellFormed ∧ (live .spiCommand ts).Emulating ∧ (live .spiCommand ts).dev.protocolState = .spiCommand ∧
    (live .spiCommand ts).bus.pending = (Transaction.write portD 0x9F).access :: (List.replicate 5
      [(Transaction.write portC 0x04).access, (Transaction.read portD).access]).flatten := by decide

theorem witness_EraseAddressByte :
    (live .spiSectorEraseAddress []).dev.spiAddressRemaining = 3 ∧ (3 : Fin 4).val ≠ 0 ∧
    (tweak midErase (fun d => { d with spiAddressRemaining := 1 })).dev.spiAddressRemaining = 1 ∧ (1 : Fin 4).val ≠ 0 ∧
    midErase.dev.spiAddressRemaining = 0 := by decide

theorem witness_ReadAddressByte :
    (live .spiHsReadAddress []).dev.spiAddressComplete = false ∧ (live .spiHsReadAddress []).dev.spiAddressRemaining = 3 ∧
    (3 : Fin 4).val ≠ 0 ∧ midErase.dev.spiAddressComplete = false ∧ midErase.dev.spiAddressRemaining = 0 ∧
    (tweak midErase (fun d => { d with spiAddressComplete := true })).dev.spiAddressComplete = true := by decide

theorem witness_SectorEraseAddress :
    let ts : List Transaction := [.write portC 0x03, .write portD 0x00, .write portD 0xFF, .write portD 0x00, .write portD 0x80]
    (live .spiSectorErase ts).cfg.WellFormed ∧ (live .spiSectorErase ts).Emulating ∧
    (live .spiSectorErase ts).dev.protocolState = .spiSectorErase ∧
    (live .spiSectorErase ts).bus.pending = ts.map Transaction.access ++ [] := by decide

theorem witness_HighSpeedReadSequence :
    let ts : List Transaction := [.write portC 0x03, .write portD 0x01, .write portD 0x02, .write portD 0x03, .write portD 0x04,
      .write portD 0x05, .write portC 0x04, .read portD]
    (live .spiHsRead ts).cfg.WellFormed ∧ (live .spiHsRead ts).Emulating ∧ (live .spiHsRead ts).dev.protocolState = .spiHsRead ∧
    (live .spiHsRead ts).bus.pending = ts.map Transaction.access ++ [] := by decide

theorem witness_SpiStatusWriters :
    (∃ u, step (live .spiCommand [.write portD 0x06]) = .next u ∧ u.dev.spiStatus ≠ State.reset.dev.spiStatus) ∧
    ∃ u, step (live .spiWriteStatusData [.write portD 0x9C]) = .next u ∧ u.dev.spiStatus ≠ State.reset.dev.spiStatus :=
  ⟨⟨_, rfl, by decide⟩, _, rfl, by decide⟩

end Sys2Proof.Tests
end

section
/-! The steps as a whole: which rows internal emulation decodes to, what every step keeps, and the two invariants of
10_state.md section 9 that each follow one element through a step. -/

namespace Sys2Proof.Machine

/-! The format of a decoded row: each map of 30_encoding.md R65 to R67 stays in its own layer. -/

@[simp] theorem decodeEcCommand_format (c : Byte) : (decodeEcCommand c).format = .ecCommand := by
  unfold decodeEcCommand; split_ifs <;> rfl

@[simp] theorem decodeSpiControl_format (c : Byte) : (decodeSpiControl c).format = .spiControl := by
  unfold decodeSpiControl; split_ifs <;> rfl

@[simp] theorem decodeFlashOpcode_format (v : Byte) : (decodeFlashOpcode v).format = .flashOpcode := by
  unfold decodeFlashOpcode; split_ifs <;> rfl

@[simp] theorem decodeCommandWrite_format (p : ProtocolState) (c : Byte) :
    (decodeCommandWrite p c).format = if p.isSpi then .spiControl else .ecCommand := by
  unfold decodeCommandWrite; split_ifs <;> simp

@[simp] theorem decodeDataWrite_format (p : ProtocolState) (v : Byte) :
    (decodeDataWrite p v).format = if p = .spiCommand then .flashOpcode else .dataPhase := by
  cases p
  case spiCommand => exact decodeFlashOpcode_format v
  all_goals rfl

/-- Port routing never answers with a command record or a request to the peer: those are decoded elsewhere
(30_encoding.md R68, R69). -/
theorem routePort_internal (c : Config) (p : ProtocolState) (t : Transaction) :
    (routePort c p t).format ≠ .acpiRecord ∧ (routePort c p t).format ≠ .bypassRequest := by
  cases t with
  | read port =>
    simp only [routePort]
    split_ifs <;> simp [Instr.format]
  | write port v =>
    simp only [routePort]
    split_ifs
    · simp [Instr.format]
    · simp [Instr.format]
    · rw [decodeDataWrite_format]; split_ifs <;> simp
    · rw [decodeCommandWrite_format]; split_ifs <;> simp
    · simp [Instr.format]

/-- While internal emulation performs the transactions, every fetched instruction is one of its rows. -/
theorem fetch_run_internal {s : State} {i : Instr} (he : s.Emulating) (h : fetch s = .run i) :
    i.format ≠ .acpiRecord ∧ i.format ≠ .bypassRequest := by
  obtain ⟨hstarted, hbypass⟩ := he
  rcases fetch_run h with ⟨hnot, -⟩ | ⟨-, a, rest, t, -, -, rfl⟩
  · simp [hstarted] at hnot
  · simpa [decodeTransaction, hbypass] using routePort_internal s.cfg s.dev.protocolState t

/-! What every step keeps. -/

/-- A property that every fetched instruction keeps is kept by every step: a step runs no instruction, one, or, when the
bypass fails, two (60_exceptions.md R195; 40_bypass.md R83). -/
theorem step_preserves {P : State → Prop}
    (hexec : ∀ {s t : State} {i : Instr}, P s → fetch s = .run i → exec i s = .next t → P t)
    {s t : State} (hs : P s) (h : step s = .next t) : P t := by
  rcases step_cases h with ⟨-, rfl⟩ | ⟨i, hi, ht, -⟩ | ⟨i, u, hi, hu, -, ⟨j, hj, ht⟩ | ⟨-, rfl⟩⟩
  · exact hs
  · exact hexec hs hi ht
  · exact hexec (hexec hs hi hu) hj ht
  · exact hexec hs hi hu

/-! The JEDEC cursor. -/

/-- A read phase moves the JEDEC cursor by one, and only while ID bytes remain (44_spi_control.md R144). -/
theorem readPhase_spiJedecCursor (c : Config) (d : Device) :
    (readPhase c d).spiJedecCursor = d.spiJedecCursor ∨
    (d.spiJedecCursor < 4 ∧ (readPhase c d).spiJedecCursor = d.spiJedecCursor + 1) := by
  rcases readPhase_cases c d with ⟨-, hr⟩ | ⟨-, hr⟩ | ⟨-, hr⟩ | hr
  · exact .inl (by simp [hr])
  · rcases Device.stageJedec_cases c d with ⟨hlt, hj⟩ | ⟨-, hj⟩
    · exact .inr ⟨hlt, by rw [hr, hj]⟩
    · exact .inl (by rw [hr, hj])
  · exact .inl (by simp [hr])
  · exact .inl (by rw [hr])

/-- An offer to the peer leaves the device as it was, but for `bypass_active` (40_bypass.md R81 to R83). -/
theorem State.offer_dev {s t : State} {r : PeerRequest} {f : Byte → Option Byte} (h : s.offer r f = .next t) :
    t.dev = s.dev ∨ t.dev = { s.dev with bypassActive := false } := by
  rcases State.offer_cases h with ⟨-, rfl⟩ | ⟨-, ⟨v, rest, -, rfl⟩ | ⟨rest, -, rfl⟩⟩
  · exact .inl rfl
  · exact .inl rfl
  · exact .inr rfl

/-- An offer to the peer leaves the JEDEC cursor alone. -/
theorem State.offer_spiJedecCursor {s t : State} {r : PeerRequest} {f : Byte → Option Byte} (h : s.offer r f = .next t) :
    t.dev.spiJedecCursor = s.dev.spiJedecCursor := by
  rcases State.offer_dev h with hd | hd <;> rw [hd]

/-- The only writers of the JEDEC cursor are `FL_RDID`, which restarts it (45_spi_flash.md R168), and `SPI_READ_PHASE`,
which moves it by one below 4 (44_spi_control.md R144). -/
theorem exec_spiJedecCursor_cases {i : Instr} {s t : State} (h : exec i s = .next t) :
    t.dev.spiJedecCursor = s.dev.spiJedecCursor ∨
    (i = .flRdid ∧ t.dev.spiJedecCursor = 0) ∨
    (i = .spiReadPhase ∧ s.dev.spiJedecCursor < 4 ∧ t.dev.spiJedecCursor = s.dev.spiJedecCursor + 1) := by
  cases i
  case flRdid => cases h; exact .inr (.inl ⟨rfl, rfl⟩)
  case spiReadPhase =>
    cases h
    rcases readPhase_spiJedecCursor s.cfg s.dev with hr | hr
    · exact .inl hr
    · exact .inr (.inr ⟨rfl, hr⟩)
  case ecRdata => cases h; exact .inl (Device.autoStage_spiJedecCursor _ _)
  case spiWritePhase => cases h; exact .inl (writePhase_spiJedecCursor _)
  case flAddrSe v =>
    simp only [exec, execFlAddrSe] at h
    split_ifs at h <;> cases h <;> exact .inl (Device.takeAddressByte_spiJedecCursor _ _)
  case flAddrHs v =>
    simp only [exec, execFlAddrHs] at h
    split_ifs at h <;> cases h
    · exact .inl rfl
    · exact .inl (Device.takeAddressByte_spiJedecCursor _ _)
  case portUnsupported t => cases t <;> cases h <;> exact .inl rfl
  case bypRead port => exact .inl (State.offer_spiJedecCursor h)
  case bypWrite port value => exact .inl (State.offer_spiJedecCursor h)
  all_goals cases h; exact .inl rfl

/-- No instruction takes the JEDEC cursor past 4. -/
theorem exec_spiJedecCursor_le {i : Instr} {s t : State} (hs : s.dev.spiJedecCursor ≤ 4) (h : exec i s = .next t) :
    t.dev.spiJedecCursor ≤ 4 := by
  rcases exec_spiJedecCursor_cases h with hsame | ⟨-, hzero⟩ | ⟨-, hlt, hnext⟩ <;> omega

/-- Settles O14: reset starts the cursor at 0, and no instruction of a step takes it past 4. -/
theorem jedecCursorSaturates : Obligations.JedecCursorSaturates :=
  ⟨fun _ => Nat.zero_le 4, fun _ _ hs h =>
    step_preserves (P := fun s => s.dev.spiJedecCursor ≤ 4) (fun hs _ => exec_spiJedecCursor_le hs) hs h⟩

/-! The bypass. -/

/-- Internal emulation, once it performs the transactions, performs every later one: nothing it runs touches
`bypass_active` (10_state.md R30). -/
theorem step_preserves_emulating {s t : State} (hs : s.Emulating) (h : step s = .next t) : t.Emulating := by
  refine step_preserves (fun {s t i} hs hi ht => ?_) hs h
  obtain ⟨hrecord, hrequest⟩ := fetch_run_internal hs hi
  obtain ⟨d, r, hdone, hbypass⟩ := exec_internal_done hrecord hrequest s
  cases hdone.symm.trans ht
  exact ⟨hs.1, hbypass.trans hs.2⟩

/-- Settles O15: with the bypass inactive a started machine is emulating, and a step leaves it so. -/
theorem bypassNeverReactivated : Obligations.BypassNeverReactivated := by
  intro s t hstarted h hactive
  by_contra hinactive
  have ht : t.Emulating := step_preserves_emulating ⟨hstarted, by simpa using hinactive⟩ h
  simp [ht.2] at hactive

end Sys2Proof.Machine
end

section
/-! The bypass channel: how a step of internal emulation runs, how a step goes on after a transport failure, and what no
run touches once the bypass is inactive (40_bypass.md R80, R83). -/

namespace Sys2Proof.Machine

/-! Runs. -/

/-- A property that every step keeps is kept by every run. -/
theorem runs_preserves {P : State → Prop} (hstep : ∀ {s t : State}, P s → step s = .next t → P t)
    {n : Nat} {s t : State} (hs : P s) (h : runs n s = .next t) : P t := by
  induction n generalizing s with
  | zero => cases h; exact hs
  | succ n ih =>
    obtain ⟨u, hu, hrun⟩ := runs_succ_next h
    exact ih (hstep hs hu) hrun

/-! A step with a transaction waiting. -/

/-- A one-byte access at the head of the queue is fetched as its transaction decodes (20_memory.md R48, R53). -/
theorem fetch_access {s : State} {t : Transaction} {rest : List HostAccess} (hstarted : s.bus.started = true)
    (hp : s.bus.pending = t.access :: rest) : fetch s = .run (decodeTransaction s.decodeContext t) := by
  simp [fetch, fetchAccess, hstarted, hp]

/-- The bypass fails only where it was active. -/
theorem bypassFailed_of_inactive {s : State} (h : s.dev.bypassActive = false) (u : State) : bypassFailed s u = false := by
  simp [bypassFailed, h]

/-- A step that runs an instruction with the bypass inactive adds nothing to it (60_exceptions.md R195). -/
theorem step_eq_exec {s : State} {i : Instr} (hb : s.dev.bypassActive = false) (hi : fetch s = .run i) :
    step s = exec i s := by
  simp only [step, stepWith, hi]
  cases exec i s with
  | next u => simp [afterRun, bypassFailed_of_inactive hb]
  | fault f => rfl
  | refused r => rfl

/-- With the bypass inactive a transaction completes in its step (60_exceptions.md R190). -/
theorem step_access_emulating {s : State} {t : Transaction} {rest : List HostAccess} (he : s.Emulating)
    (hp : s.bus.pending = t.access :: rest) : ∃ d r, step s = .next (s.done d r) := by
  have hi := fetch_access he.1 hp
  obtain ⟨hrecord, hrequest⟩ := fetch_run_internal he hi
  obtain ⟨d, r, hdone, -⟩ := exec_internal_done hrecord hrequest s
  exact ⟨d, r, (step_eq_exec he.2 hi).trans hdone⟩

/-! A transport failure. -/

/-- The state in which a request found the channel dead: the bypass inactive for good, the failed exchange on the wires,
the transaction still waiting (40_bypass.md R83; log 4). -/
def State.tornDown (s : State) (r : PeerRequest) : State :=
  { s with dev := { s.dev with bypassActive := false }, bus := s.bus.exchanged r }

/-- The failed exchange uses up the failure and lists its request (log 3, 6). -/
theorem State.tornDown_eq {s : State} {answers : List PeerAnswer} (ha : s.bus.peerAnswers = .failure :: answers)
    (r : PeerRequest) : s.tornDown r = { s with
      dev := { s.dev with bypassActive := false }
      bus := { s.bus with peerAnswers := answers, wire := s.bus.wire ++ [r] } } := by
  simp [State.tornDown, Bus.exchanged, ha]

/-- A request under which the transport fails tears the channel down. -/
theorem exec_bypassRequest_failure {s : State} {answers : List PeerAnswer} (hb : s.dev.bypassActive = true)
    (ha : s.bus.peerAnswers = .failure :: answers) (t : Transaction) :
    exec (bypassRequest t) s = .next (s.tornDown t.request) := by
  have hoffer (f : Byte → Option Byte) : s.offer t.request f = .next (s.tornDown t.request) := by
    simp [State.offer, hb, ha, State.tornDown]
  cases t with
  | read port => exact hoffer some
  | write port value => exact hoffer fun _ => none

/-- A torn-down channel is the bypass failing. -/
theorem bypassFailed_tornDown {s : State} (hstarted : s.bus.started = true) (hb : s.dev.bypassActive = true)
    (r : PeerRequest) : bypassFailed s (s.tornDown r) = true := by
  simp [bypassFailed, hstarted, hb, State.tornDown]

/-- After a transport failure the step performs the same transaction as a step with the bypass inactive performs it
(40_bypass.md R83). -/
theorem step_peer_failure {s : State} {t : Transaction} {rest : List HostAccess} {answers : List PeerAnswer}
    (hstarted : s.bus.started = true) (hb : s.dev.bypassActive = true) (hp : s.bus.pending = t.access :: rest)
    (ha : s.bus.peerAnswers = .failure :: answers) : step s = step (s.tornDown t.request) := by
  have hfetch : fetch s = .run (bypassRequest t) := by
    simp [fetch_access hstarted hp, decodeTransaction, hb]
  have hrefetch : fetch (s.tornDown t.request) = .run (decodeTransaction (s.tornDown t.request).decodeContext t) :=
    fetch_access (rest := rest) hstarted hp
  calc step s
      = afterRun exec s (exec (bypassRequest t) s) := by simp only [step, stepWith, hfetch]
    _ = afterRun exec s (.next (s.tornDown t.request)) := by rw [exec_bypassRequest_failure hb ha t]
    _ = exec (decodeTransaction (s.tornDown t.request).decodeContext t) (s.tornDown t.request) := by
        simp only [afterRun, bypassFailed_tornDown hstarted hb, if_true, hrefetch]
    _ = step (s.tornDown t.request) := (step_eq_exec rfl hrefetch).symm

/-! No request once the bypass is inactive. -/

/-- Internal emulation performs the transactions, and the peer's side of the wires stands at these answers and requests. -/
def State.PeerSilent (answers : List PeerAnswer) (wire : List PeerRequest) (s : State) : Prop :=
  s.Emulating ∧ s.bus.peerAnswers = answers ∧ s.bus.wire = wire

/-- A step with the bypass inactive asks the peer nothing (40_bypass.md R80). -/
theorem step_preserves_peerSilent {answers : List PeerAnswer} {wire : List PeerRequest} {s t : State}
    (hs : s.PeerSilent answers wire) (h : step s = .next t) : t.PeerSilent answers wire := by
  refine step_preserves (fun {s t i} hs hi ht => ?_) hs h
  obtain ⟨he, hanswers, hwire⟩ := hs
  obtain ⟨hrecord, hrequest⟩ := fetch_run_internal he hi
  obtain ⟨d, r, hdone, hkept⟩ := exec_internal_done hrecord hrequest s
  cases hdone.symm.trans ht
  exact ⟨⟨he.1, hkept.trans he.2⟩, hanswers, hwire⟩

/-- A torn-down channel has had its last request. -/
theorem State.tornDown_peerSilent {s : State} {answers : List PeerAnswer} (hstarted : s.bus.started = true)
    (ha : s.bus.peerAnswers = .failure :: answers) (r : PeerRequest) :
    (s.tornDown r).PeerSilent answers (s.bus.wire ++ [r]) := by
  rw [State.tornDown_eq ha]
  exact ⟨⟨hstarted, rfl⟩, rfl, rfl⟩

/-- Settles O7: the step goes on from the torn-down channel, where internal emulation completes the transaction and no
later step of any run calls the peer. -/
theorem bypassFailureIsPermanent : Obligations.BypassFailureIsPermanent := by
  intro s t rest answers hstarted hb hp ha
  have hfallback := step_peer_failure hstarted hb hp ha
  obtain ⟨d, r, hdone⟩ := step_access_emulating (s := s.tornDown t.request) (rest := rest) ⟨hstarted, rfl⟩ hp
  have hsilent : ((s.tornDown t.request).done d r).PeerSilent answers (s.bus.wire ++ [t.request]) :=
    step_preserves_peerSilent (State.tornDown_peerSilent hstarted ha t.request) hdone
  have ⟨⟨_, hinactive⟩, hanswers, hwire⟩ := hsilent
  refine ⟨?_, _, hfallback.trans hdone, hinactive, ?_, hanswers, hwire, fun n w hrun => ?_⟩
  · rw [hfallback, State.tornDown_eq ha]
  · simp [State.done, State.tornDown, hp]
  · obtain ⟨he, hwAnswers, hwWire⟩ := runs_preserves step_preserves_peerSilent hsilent hrun
    exact ⟨he.2, hwAnswers, hwWire.trans hwire.symm⟩

end Sys2Proof.Machine
end

section
/-! The SuperIO register file (41_superio.md): how its two ports decode, and that it and the rest of the device neither
read nor write each other (R94). -/

namespace Sys2Proof.Machine

/-! Internal emulation, by the row a port routes to. -/

/-- With the bypass inactive a transaction decodes to the row its port routes to (30_encoding.md R61, R62). -/
theorem decodeTransaction_of_inactive {s : State} (hb : s.dev.bypassActive = false) (t : Transaction) :
    decodeTransaction s.decodeContext t = routePort s.cfg s.dev.protocolState t := by
  simp [decodeTransaction, hb]

theorem State.decodesAs_iff {s : State} (he : s.Emulating) {t : Transaction} {i : Instr} :
    s.decodesAs t i ↔ routePort s.cfg s.dev.protocolState t = i := by
  rw [State.decodesAs, decode_request, decodeTransaction_of_inactive he.2, Except.ok.injEq]

/-- With the bypass inactive a step runs the row that the port of its transaction routes to (60_exceptions.md R195). -/
theorem step_eq_exec_routePort {s : State} {t : Transaction} {rest : List HostAccess} (he : s.Emulating)
    (hp : s.bus.pending = t.access :: rest) : step s = exec (routePort s.cfg s.dev.protocolState t) s := by
  rw [step_eq_exec he.2 (fetch_access he.1 hp), decodeTransaction_of_inactive he.2]

/-! The rows of the two ports. -/

/-- The two ports of the SuperIO file are different ones (00_scope.md R1). -/
theorem portSioData_ne_portSioAddr {c : Config} (hc : c.WellFormed) : c.portSioData ≠ c.portSioAddr := by
  obtain ⟨hports, -⟩ := hc
  intro heq
  simp [heq] at hports

/-- The four rows of 41_superio.md (R90 to R93). -/
def superIoRow : Instr → Bool
  | .sioWaddr _ | .sioRaddr | .sioWdata _ | .sioRdata => true
  | _ => false

/-- The four rows are matched by the port alone, so a row of a layer below it is none of them (30_encoding.md R62). -/
theorem superIoRow_of_format_ne {i : Instr} (h : i.format ≠ .transaction) : superIoRow i = false := by
  cases i
  case sioWaddr | sioRaddr | sioWdata | sioRdata => exact absurd rfl h
  all_goals rfl

/-- A transaction on any other port is routed to none of the four rows. -/
theorem superIoRow_routePort_other {c : Config} {t : Transaction} (ha : t.port ≠ c.portSioAddr)
    (hd : t.port ≠ c.portSioData) (p : ProtocolState) : superIoRow (routePort c p t) = false := by
  cases t with
  | read port =>
    simp only [Transaction.port] at ha hd
    simp only [routePort, ha, hd, if_false]
    split_ifs <;> rfl
  | write port v =>
    simp only [Transaction.port] at ha hd
    simp only [routePort, ha, hd, if_false]
    split_ifs
    · exact superIoRow_of_format_ne (by rw [decodeDataWrite_format]; split_ifs <;> simp)
    · exact superIoRow_of_format_ne (by rw [decodeCommandWrite_format]; split_ifs <;> simp)
    · rfl

/-- A transaction on one of the two ports is routed to one of the four rows, the same one in every protocol state. -/
theorem routePort_superIo {c : Config} {t : Transaction} (h : t.port = c.portSioAddr ∨ t.port = c.portSioData) :
    ∃ i, superIoRow i = true ∧ ∀ p, routePort c p t = i := by
  by_cases ha : t.port = c.portSioAddr
  · cases t with
    | read port => exact ⟨.sioRaddr, rfl, fun _ => if_pos ha⟩
    | write port v => exact ⟨.sioWaddr v, rfl, fun _ => if_pos ha⟩
  · have hd : t.port = c.portSioData := h.resolve_left ha
    cases t with
    | read port => exact ⟨.sioRdata, rfl, fun _ => (if_neg ha).trans (if_pos hd)⟩
    | write port v => exact ⟨.sioWdata v, rfl, fun _ => (if_neg ha).trans (if_pos hd)⟩

/-! A device with the SuperIO file of another: the selector and the registers replaced, all else as it was. -/

/-- The device with a SuperIO file in place of its own. -/
def Device.withSuperIo (d : Device) (a : Byte) (m : Memory) : Device :=
  { d with superioAddress := a, superioRegisters := m }

section
variable (c : Config) (d : Device) (a : Byte) (m : Memory)

@[simp] theorem Device.withSuperIo_protocolState : (d.withSuperIo a m).protocolState = d.protocolState := rfl
@[simp] theorem Device.withSuperIo_spiAddressRemaining :
    (d.withSuperIo a m).spiAddressRemaining = d.spiAddressRemaining := rfl
@[simp] theorem Device.withSuperIo_spiAddressComplete :
    (d.withSuperIo a m).spiAddressComplete = d.spiAddressComplete := rfl

/-! No operation of the EC protocol reads or writes the file: each does the same with another file in its place. -/

theorem Device.autoStageProject_withSuperIo :
    (d.withSuperIo a m).autoStageProject c = (d.autoStageProject c).withSuperIo a m := by
  unfold Device.autoStageProject
  rw [apply_ite (fun e : Device => e.withSuperIo a m)]
  rfl

theorem Device.autoStageVersion_withSuperIo :
    (d.withSuperIo a m).autoStageVersion c = (d.autoStageVersion c).withSuperIo a m := by
  unfold Device.autoStageVersion
  rw [apply_ite (fun e : Device => e.withSuperIo a m)]
  rfl

theorem Device.autoStage_withSuperIo : (d.withSuperIo a m).autoStage c = (d.autoStage c).withSuperIo a m := by
  simp only [Device.autoStage, Device.autoStageProject_withSuperIo, Device.autoStageVersion_withSuperIo,
    apply_ite (fun e : Device => e.withSuperIo a m)]
  rfl

theorem Device.takeAddressByte_withSuperIo (v : Byte) :
    (d.withSuperIo a m).takeAddressByte v = (d.takeAddressByte v).withSuperIo a m := by
  unfold Device.takeAddressByte
  rw [apply_ite (fun e : Device => e.withSuperIo a m)]
  rfl

theorem Device.stageJedec_withSuperIo : (d.withSuperIo a m).stageJedec c = (d.stageJedec c).withSuperIo a m := by
  unfold Device.stageJedec
  rw [apply_dite (fun e : Device => e.withSuperIo a m)]
  rfl

theorem writePhase_withSuperIo : writePhase (d.withSuperIo a m) = (writePhase d).withSuperIo a m := by
  simp only [writePhase, Device.withSuperIo_protocolState]
  cases d.protocolState <;> rfl

theorem readPhase_withSuperIo : readPhase c (d.withSuperIo a m) = (readPhase c d).withSuperIo a m := by
  simp only [readPhase, Device.withSuperIo_protocolState, Device.stageJedec_withSuperIo]
  cases d.protocolState <;> rfl

end

/-! The independence, row by row. -/

/-- A row that internal emulation runs, and none of the four, does the same whatever the SuperIO file holds, and leaves it
as it was (R94). -/
theorem exec_withSuperIo {i : Instr} {s u : State} (hrecord : i.format ≠ .acpiRecord)
    (hrequest : i.format ≠ .bypassRequest) (hrow : superIoRow i = false) (h : exec i s = .next u) (a : Byte)
    (m : Memory) :
    exec i { s with dev := s.dev.withSuperIo a m } = .next { u with dev := u.dev.withSuperIo a m } := by
  cases i
  case sioWaddr | sioRaddr | sioWdata | sioRdata => cases hrow
  case acpiRecB1 => exact absurd rfl hrecord
  case bypInit | bypRead | bypWrite => exact absurd rfl hrequest
  case portUnsupported t => cases t <;> cases h <;> rfl
  case ecRdata =>
    cases h
    simp only [exec, execEcRdata, Device.autoStage_withSuperIo]
    rfl
  case spiWritePhase =>
    cases h
    simp only [exec, execSpiWritePhase, writePhase_withSuperIo]
    rfl
  case spiReadPhase =>
    cases h
    simp only [exec, execSpiReadPhase, readPhase_withSuperIo]
    rfl
  case flAddrSe v =>
    simp only [exec, execFlAddrSe, Device.takeAddressByte_withSuperIo, Device.withSuperIo_spiAddressRemaining] at h ⊢
    split_ifs at h ⊢ <;> cases h <;> rfl
  case flAddrHs v =>
    simp only [exec, execFlAddrHs, Device.takeAddressByte_withSuperIo, Device.withSuperIo_spiAddressComplete] at h ⊢
    split_ifs at h ⊢ <;> cases h <;> rfl
  all_goals cases h; rfl

/-- One of the four rows does the same to the SuperIO file in any other device, and leaves that device as it was
(R94). -/
theorem exec_superIoRow {i : Instr} {s u : State} (hrow : superIoRow i = true) (h : exec i s = .next u) (d : Device) :
    exec i { s with dev := d.withSuperIo s.dev.superioAddress s.dev.superioRegisters } =
      .next { u with dev := d.withSuperIo u.dev.superioAddress u.dev.superioRegisters } := by
  cases i
  case sioWaddr | sioRaddr | sioWdata | sioRdata => cases h; rfl
  all_goals cases hrow

/-- Settles O25: both steps run the row their port routes to, and the two clauses are the independence of that row from
what was replaced. -/
theorem superIoIndependent : Obligations.SuperIoIndependent := by
  intro s u t rest he hp hstep
  rw [step_eq_exec_routePort he hp] at hstep
  refine ⟨fun ha hd a m => ?_, fun hport d hb => ?_⟩
  · obtain ⟨hrecord, hrequest⟩ := routePort_internal s.cfg s.dev.protocolState t
    have hrow := superIoRow_routePort_other ha hd s.dev.protocolState
    exact (step_eq_exec_routePort (s := { s with dev := s.dev.withSuperIo a m }) he hp).trans
      (exec_withSuperIo hrecord hrequest hrow hstep a m)
  · obtain ⟨i, hrow, hroute⟩ := routePort_superIo hport
    rw [hroute] at hstep
    calc step { s with dev := d.withSuperIo s.dev.superioAddress s.dev.superioRegisters }
        = exec (routePort s.cfg d.protocolState t) { s with dev := d.withSuperIo _ _ } :=
          step_eq_exec_routePort ⟨he.1, hb⟩ hp
      _ = exec i { s with dev := d.withSuperIo _ _ } := by rw [hroute]
      _ = .next { u with dev := d.withSuperIo u.dev.superioAddress u.dev.superioRegisters } :=
          exec_superIoRow hrow hstep d

/-- Settles O22: the address port is the first the routing compares, and its two rows are register accesses. -/
theorem superIoAddressPort : Obligations.SuperIoAddressPort := by
  refine fun s v => ⟨fun _ he => ⟨?_, ?_⟩, rfl, rfl⟩
  · exact (State.decodesAs_iff he).mpr (if_pos rfl)
  · exact (State.decodesAs_iff he).mpr (if_pos rfl)

/-- Settles O23: the data port is not the address port, and a read after the write finds the byte at the selector. -/
theorem superIoDataPort : Obligations.SuperIoDataPort := by
  refine fun s v => ⟨fun hc he => ?_, ⟨_, rfl, fun j => ?_⟩, rfl⟩
  · have hne := portSioData_ne_portSioAddr hc
    constructor
    · exact (State.decodesAs_iff he).mpr ((if_neg hne).trans (if_pos rfl))
    · exact (State.decodesAs_iff he).mpr ((if_neg hne).trans (if_pos rfl))
  · rw [Memory.read_write]
    simp only [eq_comm]

end Sys2Proof.Machine
end

section
/-! The EC ports (43_ec_dispatch.md): how the command port decodes, what `command_register` can hold, and the command
bytes that no row of R65 recognises. -/

namespace Sys2Proof.Machine

/-! Port routing of the command port. -/

/-- The command port is none of the three ports the routing compares before it (00_scope.md R1). -/
theorem portEcCmd_ne {c : Config} (hc : c.WellFormed) :
    c.portEcCmd ≠ c.portSioAddr ∧ c.portEcCmd ≠ c.portSioData ∧ c.portEcCmd ≠ c.portEcData := by
  obtain ⟨hports, -⟩ := hc
  refine ⟨?_, ?_, ?_⟩ <;> intro heq <;> simp [heq] at hports

/-- A command-port read is the status read in every protocol state (30_encoding.md R62). -/
theorem routePort_read_portEcCmd {c : Config} (hc : c.WellFormed) (p : ProtocolState) :
    routePort c p (.read c.portEcCmd) = .ecRstatus := by
  obtain ⟨hsioAddr, hsioData, hecData⟩ := portEcCmd_ne hc
  simp [routePort, hsioAddr, hsioData, hecData]

/-- A command-port write goes to the command decoder (30_encoding.md R62, R63). -/
theorem routePort_write_portEcCmd {c : Config} (hc : c.WellFormed) (p : ProtocolState) (v : Byte) :
    routePort c p (.write c.portEcCmd v) = decodeCommandWrite p v := by
  obtain ⟨hsioAddr, hsioData, hecData⟩ := portEcCmd_ne hc
  simp [routePort, hsioAddr, hsioData, hecData]

/-- Outside the SPI states a command byte is an EC command (30_encoding.md R63). -/
theorem decodeCommandWrite_of_not_isSpi {p : ProtocolState} (hp : p.isSpi = false) (c : Byte) :
    decodeCommandWrite p c = decodeEcCommand c := by
  simp [decodeCommandWrite, hp]

/-- A byte that is none of the eight commands falls to the default row (30_encoding.md R65). -/
theorem decodeEcCommand_of_notMem {c : Byte} (hc : c ∉ ecCommandBytes) : decodeEcCommand c = .ecUnrecognised c := by
  simp only [ecCommandBytes, List.mem_cons, List.not_mem_nil, or_false, not_or] at hc
  obtain ⟨h80, h81, h92, h93, h01, hDC, hDE, hF0⟩ := hc
  simp only [decodeEcCommand, h80, h81, h92, h93, h01, hDC, hDE, hF0, if_false]

/-! The command register. -/

/-- Under the invariants `OBF` determines the whole of `command_register` (10_state.md R11). -/
theorem Device.Consistent.commandRegister_eq {c : Config} {d : Device} (h : d.Consistent c) :
    d.commandRegister = if obf d.commandRegister then 0x01 else 0x00 := by
  rcases h.commandRegister with hclear | hset
  · rw [hclear]; rfl
  · rw [hset]; rfl

/-! The two statements. -/

/-- Settles O34: the port routes to the status read, whose result is the register, and the register is its `OBF` bit. -/
theorem commandPortRead : Obligations.CommandPortRead := by
  refine fun s => ⟨fun hc he => ?_, rfl, Device.Consistent.commandRegister_eq⟩
  exact (State.decodesAs_iff he).mpr (routePort_read_portEcCmd hc s.dev.protocolState)

/-- Settles O41: the byte passes the port, the layer of the protocol state and the eight commands, and its row changes
nothing. -/
theorem unrecognisedEcCommandIgnored : Obligations.UnrecognisedEcCommandIgnored := by
  refine fun s c hnot => ⟨fun hc he hspi => (State.decodesAs_iff he).mpr ?_, rfl⟩
  calc routePort s.cfg s.dev.protocolState (.write s.cfg.portEcCmd c)
      = decodeCommandWrite s.dev.protocolState c := routePort_write_portEcCmd hc _ c
    _ = decodeEcCommand c := decodeCommandWrite_of_not_isSpi hspi c
    _ = .ecUnrecognised c := decodeEcCommand_of_notMem hnot

end Sys2Proof.Machine
end

section
/-! The SPI control layer (44_spi_control.md): how the command port decodes in an SPI state, and the control bytes whose
whole effect is the next protocol state. -/

namespace Sys2Proof.Machine

/-- In an SPI state a command byte is an SPI control byte (30_encoding.md R63). -/
theorem decodeCommandWrite_of_isSpi {p : ProtocolState} (hp : p.isSpi = true) (c : Byte) :
    decodeCommandWrite p c = decodeSpiControl c := by
  simp [decodeCommandWrite, hp]

/-- In every SPI state a command-port write decodes by the control byte map (30_encoding.md R66; decision D11). -/
theorem decodesAs_decodeSpiControl {s : State} (hc : s.cfg.WellFormed) (he : s.Emulating)
    (hspi : s.dev.protocolState.isSpi = true) (c : Byte) :
    s.decodesAs (.write s.cfg.portEcCmd c) (decodeSpiControl c) := by
  refine (State.decodesAs_iff he).mpr ?_
  rw [routePort_write_portEcCmd hc, decodeCommandWrite_of_isSpi hspi]

/-- Settles O47: the control byte map gives the three rows in every SPI state, and each row completes the write with the
device in the state that it enters. -/
theorem controlBytesEnterStates : Obligations.ControlBytesEnterStates := by
  refine fun s => ⟨fun hc he hspi => ?_, ?_⟩
  · have hcontrol := decodesAs_decodeSpiControl hc he hspi
    exact ⟨hcontrol 0x01, hcontrol 0x02, hcontrol 0x05⟩
  · exact ⟨s.completeWrite_eq (s.dev.enter .spiFollow), s.completeWrite_eq (s.dev.enter .spiCommand),
      s.completeWrite_eq (s.dev.enter .idle)⟩

end Sys2Proof.Machine
end

section
/-! Flash opcode dispatch (45_spi_flash.md): how the data port decodes, the write-enable latch bit by bit, what a step does
to the device, and what leaves `SpiAaiProgram`. -/

namespace Sys2Proof.Machine

/-! Port routing of the data port. -/

/-- The data port is neither of the two ports the routing compares before it (00_scope.md R1). -/
theorem portEcData_ne {c : Config} (hc : c.WellFormed) :
    c.portEcData ≠ c.portSioAddr ∧ c.portEcData ≠ c.portSioData := by
  obtain ⟨hports, -⟩ := hc
  constructor <;> intro heq <;> simp [heq] at hports

/-- A data-port write decodes by the protocol state before it (30_encoding.md R62, R64). -/
theorem decodesAs_decodeDataWrite {s : State} (hc : s.cfg.WellFormed) (he : s.Emulating) {p : ProtocolState}
    (hp : s.dev.protocolState = p) (v : Byte) :
    s.decodesAs (.write s.cfg.portEcData v) (decodeDataWrite p v) := by
  obtain ⟨hsioAddr, hsioData⟩ := portEcData_ne hc
  refine (State.decodesAs_iff he).mpr ?_
  simp [routePort, hsioAddr, hsioData, hp]

/-! The write-enable latch: its mask is bit 1 alone. -/

theorem getLsbD_setWel (r : Byte) (b : Nat) : (setWel r).getLsbD b = if b = 1 then true else r.getLsbD b := by
  have hmask : (0x02 : Byte) = BitVec.twoPow 8 1 := rfl
  rw [setWel, hmask, BitVec.getLsbD_or, BitVec.getLsbD_twoPow]
  split_ifs with hb
  · simp [hb]
  · simp [Ne.symm hb]

theorem getLsbD_clearWel (r : Byte) (b : Nat) : (clearWel r).getLsbD b = if b = 1 then false else r.getLsbD b := by
  have hmask : (0xFD : Byte) = ~~~BitVec.twoPow 8 1 := rfl
  rw [clearWel, hmask, BitVec.getLsbD_and, BitVec.getLsbD_not, BitVec.getLsbD_twoPow]
  split_ifs with hb
  · simp [hb]
  · simpa [Ne.symm hb] using BitVec.lt_of_getLsbD

/-! The opcodes and the status byte. -/

/-- Settles O52: the two opcodes decode by the flash opcode map, and their masks set and clear bit 1 alone. -/
theorem writeEnableLatch : Obligations.WriteEnableLatch := by
  refine fun s => ⟨fun hc he hp => ?_, ⟨_, rfl, getLsbD_setWel _⟩, ⟨_, rfl, getLsbD_clearWel _⟩⟩
  have hopcode := decodesAs_decodeDataWrite hc he hp
  exact ⟨hopcode 0x06, hopcode 0x04⟩

/-- Settles O54: the flash opcode map gives the row, which enters its state with the cursor at 0. -/
theorem idOpcodeRestarts : Obligations.IdOpcodeRestarts :=
  fun _ => ⟨fun hc he hp => decodesAs_decodeDataWrite hc he hp 0x9F, rfl⟩

/-- Settles O55: every byte is the status byte in this state, and its row stores it whole. -/
theorem statusWriteUnmasked : Obligations.StatusWriteUnmasked :=
  fun _ v => ⟨fun hc he hp => decodesAs_decodeDataWrite hc he hp v, rfl⟩

/-! What a step does to the device. -/

/-- The access that a transaction was read from is the one that issues it (20_memory.md R48). -/
theorem HostAccess.eq_access_of_transaction? {a : HostAccess} {t : Transaction} (h : a.transaction? = some t) :
    a = t.access := by
  cases a with
  | read port width =>
    simp only [HostAccess.transaction?] at h
    split_ifs at h with hwidth
    cases h
    rw [hwidth]
    rfl
  | write port data =>
    match data, h with
    | [v], h => cases h; rfl

/-- With the bypass active a transaction decodes to its request to the peer (30_encoding.md R61). -/
theorem decodeTransaction_of_active {s : State} (hb : s.dev.bypassActive = true) (t : Transaction) :
    decodeTransaction s.decodeContext t = bypassRequest t := by
  simp [decodeTransaction, hb]

/-- A request to the peer is an offer of its transaction (40_bypass.md R80). -/
theorem exec_bypassRequest (t : Transaction) : ∃ f, ∀ s, exec (bypassRequest t) s = s.offer t.request f := by
  cases t with
  | read port => exact ⟨some, fun _ => rfl⟩
  | write port value => exact ⟨fun _ => none, fun _ => rfl⟩

/-- A request to the peer leaves the device as it was, but for `bypass_active` (40_bypass.md R81 to R83). -/
theorem exec_bypassRequest_dev {s u : State} {t : Transaction} (h : exec (bypassRequest t) s = .next u) :
    ∃ b, u.dev = { s.dev with bypassActive := b } := by
  obtain ⟨f, hoffer⟩ := exec_bypassRequest t
  rw [hoffer] at h
  rcases State.offer_dev h with hdev | hdev
  · exact ⟨s.dev.bypassActive, hdev⟩
  · exact ⟨false, hdev⟩

theorem bypassFailed_iff {s u : State} : bypassFailed s u = true ↔
    s.bus.started = true ∧ s.dev.bypassActive = true ∧ u.dev.bypassActive = false := by
  simp [bypassFailed, and_assoc]

/-- A request under which the bypass failed has torn the channel down (40_bypass.md R83). -/
theorem eq_tornDown_of_bypassFailed {s u : State} {t : Transaction} (hfailed : bypassFailed s u = true)
    (h : exec (bypassRequest t) s = .next u) : u = s.tornDown t.request := by
  obtain ⟨-, hactive, hinactive⟩ := bypassFailed_iff.mp hfailed
  obtain ⟨f, hoffer⟩ := exec_bypassRequest t
  rw [hoffer] at h
  rcases State.offer_cases h with ⟨hnot, -⟩ | ⟨-, ⟨v, answers, -, rfl⟩ | ⟨answers, -, rfl⟩⟩
  · simp [hactive] at hnot
  · simp [hactive] at hinactive
  · rfl

/-- A step leaves the device as it was, but for `bypass_active`; or it runs, on that device with the bypass inactive, the
row that the port of the transaction at the head of the queue routes to (30_encoding.md R61; 40_bypass.md R81 to R84). -/
theorem step_dev_cases {s u : State} (h : step s = .next u) :
    (∃ b, u.dev = { s.dev with bypassActive := b }) ∨
    ∃ t rest e, s.bus.pending = Transaction.access t :: rest ∧ e.cfg = s.cfg ∧
      e.dev = { s.dev with bypassActive := false } ∧ exec (routePort s.cfg s.dev.protocolState t) e = .next u := by
  rcases step_cases h with ⟨-, rfl⟩ | ⟨i, hi, hexec, -⟩ | ⟨i, w, hi, hexec, hfailed, hrest⟩
  case inl => exact .inl ⟨u.dev.bypassActive, rfl⟩
  case inr.inl =>
    rcases fetch_run hi with ⟨-, rfl⟩ | ⟨-, a, rest, t, hpending, ha, rfl⟩
    · cases hexec; exact .inl ⟨s.cfg.bypassInit, rfl⟩
    cases hb : s.dev.bypassActive with
    | true => exact .inl (exec_bypassRequest_dev (decodeTransaction_of_active hb t ▸ hexec))
    | false =>
      rw [decodeTransaction_of_inactive hb] at hexec
      exact .inr ⟨t, rest, s, HostAccess.eq_access_of_transaction? ha ▸ hpending, rfl, by rw [← hb], hexec⟩
  case inr.inr =>
    obtain ⟨hstarted, hb, -⟩ := bypassFailed_iff.mp hfailed
    rcases fetch_run hi with ⟨hnot, -⟩ | ⟨-, a, rest, t, hpending, ha, rfl⟩
    · simp [hstarted] at hnot
    obtain rfl := HostAccess.eq_access_of_transaction? ha
    rw [decodeTransaction_of_active hb] at hexec
    obtain rfl := eq_tornDown_of_bypassFailed hfailed hexec
    rcases hrest with ⟨j, hj, hemulated⟩ | ⟨-, rfl⟩
    · have hrefetch := fetch_access (s := s.tornDown t.request) (t := t) (rest := rest) hstarted hpending
      cases hrefetch.symm.trans hj
      exact .inr ⟨t, rest, s.tornDown t.request, hpending, rfl, rfl, hemulated⟩
    · exact .inl ⟨false, rfl⟩

/-! The state `SpiAaiProgram`: neither phase does anything in it, and three control bytes leave it. -/

theorem writePhase_spiAaiProgram {d : Device} (hp : d.protocolState = .spiAaiProgram) : writePhase d = d := by
  simp only [writePhase, hp]

theorem readPhase_spiAaiProgram {d : Device} (hp : d.protocolState = .spiAaiProgram) (c : Config) :
    readPhase c d = d := by
  simp only [readPhase, hp]

/-- The string auto-stage runs in the two string states only (43_ec_dispatch.md R117). -/
theorem Device.autoStage_spiAaiProgram {d : Device} (hp : d.protocolState = .spiAaiProgram) (c : Config) :
    d.autoStage c = d := by
  simp [Device.autoStage, hp]

/-- The control bytes that leave `SpiAaiProgram` are the two that open another SPI state and the one that ends the
sub-protocol (44_spi_control.md R141, R142, R145). -/
theorem exec_decodeSpiControl_leaves_spiAaiProgram {s u : State} {c : Byte}
    (hp : s.dev.protocolState = .spiAaiProgram) (h : exec (decodeSpiControl c) s = .next u) :
    u.dev.protocolState = .spiAaiProgram ∨ c ∈ ([0x01, 0x02, 0x05] : List Byte) := by
  unfold decodeSpiControl at h
  split_ifs at h with hfollow hcommand hwrite hread hunfollow
  · simp [hfollow]
  · simp [hcommand]
  · cases h; exact .inl ((congrArg Device.protocolState (writePhase_spiAaiProgram hp)).trans hp)
  · cases h; exact .inl ((readPhase_protocolState s.cfg s.dev).trans hp)
  · simp [hunfollow]
  · cases h; exact .inl hp

/-- No read leaves `SpiAaiProgram`. -/
theorem exec_routePort_read_spiAaiProgram {s u : State} {c : Config} {port : Byte}
    (hp : s.dev.protocolState = .spiAaiProgram) (h : exec (routePort c .spiAaiProgram (.read port)) s = .next u) :
    u.dev.protocolState = .spiAaiProgram := by
  simp only [routePort] at h
  split_ifs at h
  · cases h; exact hp
  · cases h; exact hp
  · cases h; exact (congrArg Device.protocolState (Device.autoStage_spiAaiProgram hp s.cfg)).trans hp
  · cases h; exact hp
  · cases h; exact hp

/-- The one port that leaves `SpiAaiProgram` is the command port, by one of three bytes. -/
theorem exec_routePort_leaves_spiAaiProgram {s u : State} {c : Config} {t : Transaction}
    (hp : s.dev.protocolState = .spiAaiProgram) (h : exec (routePort c .spiAaiProgram t) s = .next u) :
    u.dev.protocolState = .spiAaiProgram ∨ ∃ v ∈ ([0x01, 0x02, 0x05] : List Byte), t = .write c.portEcCmd v := by
  cases t with
  | read port => exact .inl (exec_routePort_read_spiAaiProgram hp h)
  | write port v =>
    simp only [routePort] at h
    split_ifs at h with hsioAddr hsioData hecData hecCmd
    · cases h; exact .inl hp
    · cases h; exact .inl hp
    · cases h; exact .inl hp
    · rw [decodeCommandWrite_of_isSpi rfl] at h
      exact (exec_decodeSpiControl_leaves_spiAaiProgram hp h).imp_right fun hv => ⟨v, hv, by rw [hecCmd]⟩
    · cases h; exact .inl hp

/-- A step leaves `SpiAaiProgram` for a command-port write of one of three bytes only, whether the bypass is inactive or
fails in it (45_spi_flash.md R170). -/
theorem step_leaves_spiAaiProgram {s u : State} (hp : s.dev.protocolState = .spiAaiProgram) (h : step s = .next u)
    (hleft : u.dev.protocolState ≠ .spiAaiProgram) :
    ∃ v ∈ ([0x01, 0x02, 0x05] : List Byte), ∃ rest, s.bus.pending = (Transaction.write s.cfg.portEcCmd v).access :: rest := by
  rcases step_dev_cases h with ⟨b, hdev⟩ | ⟨t, rest, e, hpending, -, hdev, hexec⟩
  · have hsame : u.dev.protocolState = s.dev.protocolState := by rw [hdev]
    exact absurd (hsame.trans hp) hleft
  · have hsame : e.dev.protocolState = s.dev.protocolState := by rw [hdev]
    rw [hp] at hexec
    obtain ⟨v, hv, rfl⟩ := (exec_routePort_leaves_spiAaiProgram (hsame.trans hp) hexec).resolve_left hleft
    exact ⟨v, hv, rest, hpending⟩

/-- Settles O51: the opcodes decode by the flash opcode map and only enter their states; in `SpiAaiProgram` data bytes and
the two phases keep the device; and the row a step runs leaves that state for three control bytes only. -/
theorem flashOpcodesEnterStates : Obligations.FlashOpcodesEnterStates := by
  refine ⟨fun s => ⟨fun hc he hp => ?_, s.completeWrite_eq (s.dev.enter .spiWriteStatus),
    s.completeWrite_eq (s.dev.enter .spiReadStatus), s.completeWrite_eq (s.dev.enter .spiAaiProgram),
    fun hp => ⟨fun v => ⟨fun hc he => ?_, s.completeWrite_eq s.dev⟩, ?_, ?_⟩⟩, fun _ _ => step_leaves_spiAaiProgram⟩
  · have hopcode := decodesAs_decodeDataWrite hc he hp
    exact ⟨hopcode 0x01, hopcode 0x05, hopcode 0xAD⟩
  · exact decodesAs_decodeDataWrite hc he hp v
  · exact congrArg s.completeWrite (writePhase_spiAaiProgram hp)
  · exact congrArg s.completeWrite (readPhase_spiAaiProgram hp s.cfg)

end Sys2Proof.Machine
end

section
/-! The decoder and the encoder (30_encoding.md R61 to R69): the row a transaction decodes to is the one row that applies
to it, so bytes and instructions round-trip. -/

namespace Sys2Proof.Machine

/-! The row a transaction decodes to applies to it: it is well formed, selected, and encoded by that transaction. -/

theorem decodeEcCommand_row (c : Config) (b : Byte) : (decodeEcCommand b).wellFormed c = true ∧
    (decodeEcCommand b).transaction? c = some (.write c.portEcCmd b) := by
  unfold decodeEcCommand
  split_ifs <;> simp_all [Instr.wellFormed, Instr.transaction?, ecCommandBytes]

theorem decodeSpiControl_row (c : Config) (b : Byte) : (decodeSpiControl b).wellFormed c = true ∧
    (decodeSpiControl b).transaction? c = some (.write c.portEcCmd b) := by
  unfold decodeSpiControl
  split_ifs <;> simp_all [Instr.wellFormed, Instr.transaction?, spiControlBytes]

theorem decodeFlashOpcode_row (c : Config) (v : Byte) : (decodeFlashOpcode v).wellFormed c = true ∧
    (decodeFlashOpcode v).transaction? c = some (.write c.portEcData v) := by
  unfold decodeFlashOpcode
  split_ifs <;> simp_all [Instr.wellFormed, Instr.transaction?, flashOpcodeBytes]

theorem inState_of_ecCommand {i : Instr} (h : i.format = .ecCommand) (p : ProtocolState) :
    i.inState p = !p.isSpi := by
  cases i
  case ecGetAcpi | ecSetAcpi | ecGetProject | ecGetVersion | ecSpiFollow => rfl
  case ecVendorDc | ecVendorDe | ecVendorF0 | ecUnrecognised => rfl
  all_goals cases h

theorem inState_of_spiControl {i : Instr} (h : i.format = .spiControl) (p : ProtocolState) :
    i.inState p = p.isSpi := by
  cases i
  case spiFollow | spiCommand | spiWritePhase | spiReadPhase | spiUnfollow | spiUnrecognised => rfl
  all_goals cases h

theorem inState_of_flashOpcode {i : Instr} (h : i.format = .flashOpcode) (p : ProtocolState) :
    i.inState p = decide (p = .spiCommand) := by
  cases i
  case flWrsr | flWrdi | flRdsr | flWren | flHsread | flSe | flSeD7 | flRdid | flAai | flUnrecognised => rfl
  all_goals cases h

/-- The command decoder answers with a row of the protocol state (30_encoding.md R63). -/
theorem decodeCommandWrite_row (c : Config) (p : ProtocolState) (b : Byte) :
    (decodeCommandWrite p b).wellFormed c = true ∧ (decodeCommandWrite p b).inState p = true ∧
    (decodeCommandWrite p b).transaction? c = some (.write c.portEcCmd b) := by
  cases hp : p.isSpi with
  | false =>
    rw [decodeCommandWrite_of_not_isSpi hp, inState_of_ecCommand (decodeEcCommand_format b), hp]
    simp [decodeEcCommand_row]
  | true =>
    rw [decodeCommandWrite_of_isSpi hp, inState_of_spiControl (decodeSpiControl_format b), hp]
    simp [decodeSpiControl_row]

/-- The data decoder answers with a row of the protocol state (30_encoding.md R64). -/
theorem decodeDataWrite_row (c : Config) (p : ProtocolState) (v : Byte) :
    (decodeDataWrite p v).wellFormed c = true ∧ (decodeDataWrite p v).inState p = true ∧
    (decodeDataWrite p v).transaction? c = some (.write c.portEcData v) := by
  cases p
  case spiCommand =>
    have hin := inState_of_flashOpcode (decodeFlashOpcode_format v) .spiCommand
    simp [decodeDataWrite, decodeFlashOpcode_row, hin]
  all_goals exact ⟨rfl, rfl, rfl⟩

/-- Port routing answers with a row of its transaction and of the protocol state (30_encoding.md R62). -/
theorem routePort_row (c : Config) (p : ProtocolState) (t : Transaction) :
    (routePort c p t).wellFormed c = true ∧ (routePort c p t).inState p = true ∧
    (routePort c p t).transaction? c = some t := by
  cases t with
  | read port =>
    simp only [routePort]
    split_ifs <;> simp_all [Instr.wellFormed, Instr.inState, Instr.transaction?, Config.ports, Transaction.port]
  | write port v =>
    simp only [routePort]
    split_ifs with hsioAddr hsioData hecData hecCmd
    · exact ⟨rfl, rfl, by rw [hsioAddr]; rfl⟩
    · exact ⟨rfl, rfl, by rw [hsioData]; rfl⟩
    · exact hecData ▸ decodeDataWrite_row c p v
    · exact hecCmd ▸ decodeCommandWrite_row c p v
    · exact ⟨by simp [Instr.wellFormed, Config.ports, Transaction.port, *], rfl, rfl⟩

/-- A row that internal emulation runs is selected by the protocol state, with the bypass inactive (30_encoding.md R61). -/
theorem selectedBy_of_internal {i : Instr} (hrecord : i.format ≠ .acpiRecord) (hrequest : i.format ≠ .bypassRequest)
    (k : DecodeContext) : i.selectedBy k = (!k.bypassActive && i.inState k.protocolState) := by
  unfold Instr.selectedBy
  cases hf : i.format <;> simp_all

/-- A row applies to a transaction in a context: it is well formed, selected there, and encoded by the transaction. -/
def RowApplies (k : DecodeContext) (t : Transaction) (i : Instr) : Prop :=
  i.wellFormed k.cfg = true ∧ i.selectedBy k = true ∧ i.transaction? k.cfg = some t

theorem decodeTransaction_applies (k : DecodeContext) (t : Transaction) : RowApplies k t (decodeTransaction k t) := by
  cases hb : k.bypassActive with
  | true =>
    simp only [RowApplies, decodeTransaction, hb, if_true]
    cases t <;> simp [bypassRequest, Instr.wellFormed, Instr.selectedBy, Instr.format, Instr.transaction?, hb]
  | false =>
    obtain ⟨hwf, hin, ht⟩ := routePort_row k.cfg k.protocolState t
    obtain ⟨hrecord, hrequest⟩ := routePort_internal k.cfg k.protocolState t
    simp [RowApplies, decodeTransaction, hb, hwf, hin, ht, selectedBy_of_internal hrecord hrequest]

/-! No other row applies: each well-formed row is the one its own transaction decodes to. -/

theorem decodeSpiControl_of_notMem {b : Byte} (hb : b ∉ spiControlBytes) : decodeSpiControl b = .spiUnrecognised b := by
  simp only [spiControlBytes, List.mem_cons, List.not_mem_nil, or_false, not_or] at hb
  obtain ⟨h01, h02, h03, h04, h05⟩ := hb
  simp only [decodeSpiControl, h01, h02, h03, h04, h05, if_false]

theorem decodeFlashOpcode_of_notMem {v : Byte} (hv : v ∉ flashOpcodeBytes) :
    decodeFlashOpcode v = .flUnrecognised v := by
  simp only [flashOpcodeBytes, List.mem_cons, List.not_mem_nil, or_false, not_or] at hv
  obtain ⟨h01, h04, h05, h06, h0B, h20, hD7, h9F, hAD⟩ := hv
  simp only [decodeFlashOpcode, h01, h04, h05, h06, h0B, h20, hD7, h9F, hAD, if_false]

/-- Every row of the EC commands is what its byte decodes to (30_encoding.md R65). -/
theorem ecCommand_decodes {c : Config} {i : Instr} (hf : i.format = .ecCommand) (hw : i.wellFormed c = true) :
    ∃ b, i.transaction? c = some (.write c.portEcCmd b) ∧ decodeEcCommand b = i := by
  cases i
  case ecUnrecognised b => exact ⟨b, rfl, decodeEcCommand_of_notMem (by simpa [Instr.wellFormed] using hw)⟩
  case ecGetAcpi | ecSetAcpi | ecGetProject | ecGetVersion | ecSpiFollow => exact ⟨_, rfl, rfl⟩
  case ecVendorDc | ecVendorDe | ecVendorF0 => exact ⟨_, rfl, rfl⟩
  all_goals cases hf

/-- Every row of the SPI control layer is what its byte decodes to (30_encoding.md R66). -/
theorem spiControl_decodes {c : Config} {i : Instr} (hf : i.format = .spiControl) (hw : i.wellFormed c = true) :
    ∃ b, i.transaction? c = some (.write c.portEcCmd b) ∧ decodeSpiControl b = i := by
  cases i
  case spiUnrecognised b => exact ⟨b, rfl, decodeSpiControl_of_notMem (by simpa [Instr.wellFormed] using hw)⟩
  case spiFollow | spiCommand | spiWritePhase | spiReadPhase | spiUnfollow => exact ⟨_, rfl, rfl⟩
  all_goals cases hf

/-- Every row of the flash opcodes is what its byte decodes to (30_encoding.md R67). -/
theorem flashOpcode_decodes {c : Config} {i : Instr} (hf : i.format = .flashOpcode) (hw : i.wellFormed c = true) :
    ∃ v, i.transaction? c = some (.write c.portEcData v) ∧ decodeFlashOpcode v = i := by
  cases i
  case flUnrecognised v => exact ⟨v, rfl, decodeFlashOpcode_of_notMem (by simpa [Instr.wellFormed] using hw)⟩
  case flWrsr | flWrdi | flRdsr | flWren | flHsread | flSe | flSeD7 | flRdid | flAai => exact ⟨_, rfl, rfl⟩
  all_goals cases hf

/-- Every row of the data phases is what its byte decodes to, in each of its protocol states (30_encoding.md R64). -/
theorem dataPhase_decodes {c : Config} {p : ProtocolState} {i : Instr} (hf : i.format = .dataPhase)
    (hin : i.inState p = true) : ∃ v, i.transaction? c = some (.write c.portEcData v) ∧ decodeDataWrite p v = i := by
  cases i
  case acpiGetIndex v | acpiSetIndex v | acpiSetValue v =>
    obtain rfl := of_decide_eq_true hin; exact ⟨v, rfl, rfl⟩
  case flStatusData v | flAddrSe v | flAddrHs v | flAaiData v =>
    obtain rfl := of_decide_eq_true hin; exact ⟨v, rfl, rfl⟩
  case ecDataIgnored v | flDataIgnored v =>
    refine ⟨v, rfl, ?_⟩
    cases p <;> simp_all [Instr.inState, decodeDataWrite]
  all_goals cases hf

/-- A data-port write goes to the data decoder (30_encoding.md R62, R64). -/
theorem routePort_write_portEcData {c : Config} (hc : c.WellFormed) (p : ProtocolState) (v : Byte) :
    routePort c p (.write c.portEcData v) = decodeDataWrite p v := by
  obtain ⟨hsioAddr, hsioData⟩ := portEcData_ne hc
  simp [routePort, hsioAddr, hsioData]

/-- A data-port read is the data read in every protocol state (30_encoding.md R62). -/
theorem routePort_read_portEcData {c : Config} (hc : c.WellFormed) (p : ProtocolState) :
    routePort c p (.read c.portEcData) = .ecRdata := by
  obtain ⟨hsioAddr, hsioData⟩ := portEcData_ne hc
  simp [routePort, hsioAddr, hsioData]

/-- A transaction on a port with no meaning is the default row (30_encoding.md R62). -/
theorem routePort_unsupported {c : Config} {t : Transaction} (h : t.port ∉ c.ports) (p : ProtocolState) :
    routePort c p t = .portUnsupported t := by
  simp only [Config.ports, List.mem_cons, List.not_mem_nil, or_false, not_or] at h
  obtain ⟨hsioAddr, hsioData, hecData, hecCmd⟩ := h
  cases t <;> simp_all [routePort, Transaction.port]

/-- Every row matched by its port is what its transaction routes to (30_encoding.md R62). -/
theorem transactionRow_decodes {c : Config} (hc : c.WellFormed) {p : ProtocolState} {t : Transaction} {i : Instr}
    (hf : i.format = .transaction) (hw : i.wellFormed c = true) (ht : i.transaction? c = some t) :
    routePort c p t = i := by
  have hsio := portSioData_ne_portSioAddr hc
  cases i
  case sioWaddr | sioRaddr => cases ht; exact if_pos rfl
  case sioWdata | sioRdata => cases ht; exact (if_neg hsio).trans (if_pos rfl)
  case ecRstatus => cases ht; exact routePort_read_portEcCmd hc p
  case ecRdata => cases ht; exact routePort_read_portEcData hc p
  case portUnsupported => cases ht; exact routePort_unsupported (by simpa [Instr.wellFormed] using hw) p
  all_goals cases hf

/-- A well-formed row of internal emulation is what its transaction routes to where the protocol state selects it. -/
theorem routePort_of_row {c : Config} (hc : c.WellFormed) {p : ProtocolState} {t : Transaction} {i : Instr}
    (hrecord : i.format ≠ .acpiRecord) (hrequest : i.format ≠ .bypassRequest) (hw : i.wellFormed c = true)
    (hin : i.inState p = true) (ht : i.transaction? c = some t) : routePort c p t = i := by
  cases hf : i.format with
  | transaction => exact transactionRow_decodes hc hf hw ht
  | ecCommand =>
    obtain ⟨b, hb, hdecode⟩ := ecCommand_decodes hf hw
    cases ht.symm.trans hb
    rw [routePort_write_portEcCmd hc, decodeCommandWrite_of_not_isSpi, hdecode]
    simpa [inState_of_ecCommand hf] using hin
  | spiControl =>
    obtain ⟨b, hb, hdecode⟩ := spiControl_decodes hf hw
    cases ht.symm.trans hb
    rw [routePort_write_portEcCmd hc, decodeCommandWrite_of_isSpi, hdecode]
    simpa [inState_of_spiControl hf] using hin
  | flashOpcode =>
    obtain ⟨v, hv, hdecode⟩ := flashOpcode_decodes hf hw
    cases ht.symm.trans hv
    obtain rfl : p = .spiCommand := by simpa [inState_of_flashOpcode hf] using hin
    exact (routePort_write_portEcData hc _ v).trans hdecode
  | dataPhase =>
    obtain ⟨v, hv, hdecode⟩ := dataPhase_decodes hf hin
    cases ht.symm.trans hv
    exact (routePort_write_portEcData hc p v).trans hdecode
  | acpiRecord => exact absurd hf hrecord
  | bypassRequest => exact absurd hf hrequest

/-- The decoder reads from a transaction the one row that applies to it (30_encoding.md R73; 60_exceptions.md R195). -/
theorem decodeTransaction_eq_iff {k : DecodeContext} (hc : k.cfg.WellFormed) {t : Transaction} {i : Instr} :
    decodeTransaction k t = i ↔ RowApplies k t i := by
  refine ⟨fun h => h ▸ decodeTransaction_applies k t, fun ⟨hw, hselected, ht⟩ => ?_⟩
  by_cases hrecord : i.format = .acpiRecord
  · cases i
    case acpiRecB1 => cases ht
    all_goals cases hrecord
  by_cases hrequest : i.format = .bypassRequest
  · cases i
    case bypInit => cases ht
    case bypRead | bypWrite =>
      cases ht
      have hb : k.bypassActive = true := by simpa [Instr.selectedBy, Instr.format] using hselected
      simp [decodeTransaction, hb, bypassRequest]
    all_goals cases hrequest
  rw [selectedBy_of_internal hrecord hrequest] at hselected
  obtain ⟨hb, hin⟩ : k.bypassActive = false ∧ i.inState k.protocolState = true := by simpa using hselected
  simpa [decodeTransaction, hb] using routePort_of_row hc hrecord hrequest hw hin ht

/-! Bytes. -/

/-- An instruction that is a transaction is encoded as its request bytes (30_encoding.md R69). -/
theorem encode_of_transaction? {c : Config} {i : Instr} {t : Transaction} (h : i.transaction? c = some t) :
    encode c i = t.request.bytes := by
  simp [encode, h]

/-- Two rows are no transaction: the `Init` request and the command record (30_encoding.md R68, R69). -/
theorem transaction?_eq_none {c : Config} {i : Instr} (h : i.transaction? c = none) :
    i = .bypInit ∨ ∃ d1 d2 d3 d4 d5, i = .acpiRecB1 d1 d2 d3 d4 d5 := by
  cases i
  case bypInit => exact .inl rfl
  case acpiRecB1 => exact .inr ⟨_, _, _, _, _, rfl⟩
  all_goals cases h

/-- Bytes that decode are the `Init` request, the request of a transaction, or a command record. -/
theorem decode_ok_cases {k : DecodeContext} {bytes : List Byte} {i : Instr} (h : decode k bytes = .ok i) :
    (bytes = PeerRequest.init.bytes ∧ i = .bypInit) ∨
    (∃ t : Transaction, bytes = t.request.bytes ∧ i = decodeTransaction k t) ∨
    (∃ d1 d2 d3 d4 d5, bytes = [0xB1, d1, d2, d3, d4, d5] ∧ i = .acpiRecB1 d1 d2 d3 d4 d5) := by
  unfold decode at h
  split at h
  next kind address value =>
    unfold decodeRequest at h
    split_ifs at h with hinit hzero hread hvalue hwrite
    · obtain ⟨rfl, rfl⟩ := hzero
      cases h; subst hinit
      exact .inl ⟨rfl, rfl⟩
    · cases h; subst hread hvalue
      exact .inr (.inl ⟨.read address, rfl, rfl⟩)
    · cases h; subst hwrite
      exact .inr (.inl ⟨.write address value, rfl, rfl⟩)
  next cmd d1 d2 d3 d4 d5 =>
    unfold decodeRecord at h
    split_ifs at h with hcmd
    cases h; subst hcmd
    exact .inr (.inr ⟨d1, d2, d3, d4, d5, rfl, rfl⟩)
  next => cases h

/-- Settles O1: a row that is a transaction is the one row that applies to it, and the other two rows have bytes of their
own. -/
theorem decodeEncodeRoundTrip : Obligations.DecodeEncodeRoundTrip := by
  intro k i hc hw hselected
  cases ht : i.transaction? k.cfg with
  | none =>
    rcases transaction?_eq_none ht with rfl | ⟨d1, d2, d3, d4, d5, rfl⟩
    · rfl
    · rfl
  | some t => rw [encode_of_transaction? ht, decode_request, (decodeTransaction_eq_iff hc).mpr ⟨hw, hselected, ht⟩]

/-- Settles O2: the bytes of a transaction decode to a row that it encodes, and the other two forms are one row each. -/
theorem encodeDecodeRoundTrip : Obligations.EncodeDecodeRoundTrip := by
  intro k bytes i _ h
  rcases decode_ok_cases h with ⟨rfl, rfl⟩ | ⟨t, rfl, rfl⟩ | ⟨d1, d2, d3, d4, d5, rfl, rfl⟩
  · exact ⟨rfl, rfl, rfl⟩
  · obtain ⟨hw, hselected, ht⟩ := decodeTransaction_applies k t
    exact ⟨encode_of_transaction? ht, hw, hselected⟩
  · exact ⟨rfl, rfl, rfl⟩

/-- Settles O3: the row is the one the transaction decodes to. -/
theorem exactlyOneRowApplies : Obligations.ExactlyOneRowApplies := fun k t hc _ =>
  ⟨decodeTransaction k t, decodeTransaction_applies k t,
    fun _ happlies => ((decodeTransaction_eq_iff hc).mpr happlies).symm⟩

/-- Settles O4: each word is evaluated by the decoder. -/
theorem sampleWordsDecode : Obligations.SampleWordsDecode := by
  refine ⟨?_, ?_, ?_, ?_, ?_, ?_, ?_, ?_⟩ <;> rfl

/-- Settles O5: the request bytes decode as the transaction does, which is what the step fetches and runs. -/
theorem stepRunsDecodedInstruction : Obligations.StepRunsDecodedInstruction := by
  intro s t rest i he hp hdecode
  rw [decode_request, Except.ok.injEq] at hdecode
  exact step_eq_exec he.2 (hdecode ▸ fetch_access he.1 hp)

end Sys2Proof.Machine
end

section
/-! Runs and the bypass: what a step with a transaction waiting does when the peer replies, what it does with the bypass
inactive, and what no run touches (40_bypass.md; 60_exceptions.md R190, R195). -/

namespace Sys2Proof.Machine

/-! One request to the peer. -/

theorem State.offer_reply {s : State} {v : Byte} {answers : List PeerAnswer} (hb : s.dev.bypassActive = true)
    (ha : s.bus.peerAnswers = .reply v :: answers) (r : PeerRequest) (f : Byte → Option Byte) :
    s.offer r f = .next { s with bus := (s.bus.exchanged r).retire (f v) } := by
  simp [State.offer, hb, ha]

theorem State.offer_failure {s : State} {answers : List PeerAnswer} (hb : s.dev.bypassActive = true)
    (ha : s.bus.peerAnswers = .failure :: answers) (r : PeerRequest) (f : Byte → Option Byte) :
    s.offer r f = .next (s.tornDown r) := by
  simp [State.offer, hb, ha, State.tornDown]

theorem State.offer_noAnswer {s : State} (hb : s.dev.bypassActive = true) (ha : s.bus.peerAnswers = [])
    (r : PeerRequest) (f : Byte → Option Byte) : s.offer r f = .fault .peerNeverAnswers := by
  simp [State.offer, hb, ha]

/-- A request uses up its answer and is listed (log 3, 6). -/
theorem Bus.exchanged_eq {b : Bus} {a : PeerAnswer} {answers : List PeerAnswer} (ha : b.peerAnswers = a :: answers)
    (r : PeerRequest) : b.exchanged r = { b with peerAnswers := answers, wire := b.wire ++ [r] } := by
  simp [Bus.exchanged, ha]

/-- Settles O20: both requests are offers of their transaction, and an offer does one of four things. -/
theorem bypassRequestEffects : Obligations.BypassRequestEffects := by
  refine fun s port value => ⟨fun hb => ⟨?_, ?_⟩, fun hb v answers ha => ?_, fun hb answers ha => ?_, fun hb ha => ⟨?_, ?_⟩⟩
  · exact State.offer_inactive hb _ some
  · exact State.offer_inactive hb _ fun _ => none
  · have hreply (t : Transaction) := Bus.exchanged_eq ha t.request ▸ State.offer_reply hb ha t.request
    exact ⟨hreply (.read port) some, hreply (.write port value) fun _ => none⟩
  · have hfailure (t : Transaction) := State.tornDown_eq ha t.request ▸ State.offer_failure hb ha t.request
    exact ⟨hfailure (.read port) some, hfailure (.write port value) fun _ => none⟩
  · exact State.offer_noAnswer hb ha _ some
  · exact State.offer_noAnswer hb ha _ fun _ => none

/-- Settles O21: the handshake writes `bypass_active` and its own two fields of the wires, by its outcome. -/
theorem handshakeSetsBypass : Obligations.HandshakeSetsBypass := by
  refine fun s => ⟨_, rfl, rfl, rfl, rfl, rfl, rfl, rfl, fun h => ?_, fun h => ?_⟩
  · simp [h, PeerRequest.init, PeerRequest.bytes]
  · simp [h]

/-- Settles O17: the machine at power-on has nothing to fetch but the handshake, and its outcome is `BYPASS_INIT`. -/
theorem powerOnHandshakeReachesReset : Obligations.PowerOnHandshakeReachesReset := fun c =>
  calc step (State.powerOn c) = exec .bypInit (State.powerOn c) := step_eq_exec rfl rfl
    _ = .next (State.resetWith c) := rfl

/-! One step. -/

/-- With the bypass active a step runs the request of the transaction at the head of the queue (30_encoding.md R61). -/
theorem fetch_access_active {s : State} {t : Transaction} {rest : List HostAccess} (hstarted : s.bus.started = true)
    (hb : s.dev.bypassActive = true) (hp : s.bus.pending = t.access :: rest) : fetch s = .run (bypassRequest t) := by
  rw [fetch_access hstarted hp, decodeTransaction_of_active hb]

/-- A step that keeps the bypass as it was adds nothing to the instruction it ran (60_exceptions.md R195). -/
theorem step_of_exec {s u : State} {i : Instr} (hi : fetch s = .run i) (hexec : exec i s = .next u)
    (hfailed : bypassFailed s u = false) : step s = .next u := by
  simp [step, stepWith, hi, hexec, afterRun, hfailed]

/-- Settles O6: the step runs the request, whose reply completes the transaction with the bypass still active. -/
theorem bypassReplyCompletesTransaction : Obligations.BypassReplyCompletesTransaction := by
  intro s t rest v answers hstarted hb hp ha
  have hactive (u : State) (hu : u.dev = s.dev) : bypassFailed s u = false := by simp [bypassFailed, hu, hb]
  cases t with
  | read port =>
    have hreply := State.offer_reply hb ha (Transaction.read port).request some
    rw [step_of_exec (fetch_access_active hstarted hb hp) hreply (hactive _ rfl)]
    simp [Bus.exchanged_eq ha, Bus.retire, hp]
  | write port value =>
    have hreply := State.offer_reply hb ha (Transaction.write port value).request fun _ => none
    rw [step_of_exec (fetch_access_active hstarted hb hp) hreply (hactive _ rfl)]
    simp [Bus.exchanged_eq ha, Bus.retire, hp]

/-- Settles O8: an empty queue fetches nothing. -/
theorem idleStepChangesNothing : Obligations.IdleStepChangesNothing := by
  intro s hstarted hp
  simp [step, stepWith, fetch, hstarted, hp]

/-- An access that is no transaction is refused by the fetch (20_memory.md R48). -/
theorem step_refuses {s : State} {a : HostAccess} {rest : List HostAccess} (hstarted : s.bus.started = true)
    (ha : a.transaction? = none) (hp : s.bus.pending = a :: rest) : step s = .refused .accessNotOneByte := by
  simp [step, stepWith, fetch, fetchAccess, hstarted, hp, ha]

/-- Settles O9: a read of another width and a write of another number of bytes are no transaction. -/
theorem wideAccessRefused : Obligations.WideAccessRefused := by
  refine fun s port rest hstarted => ⟨fun width hwidth => ?_, fun data hlength => ?_⟩
  · exact step_refuses hstarted (if_neg hwidth)
  · refine step_refuses hstarted ?_
    match data, hlength with
    | [], _ => rfl
    | [_], hlength => exact absurd rfl hlength
    | _ :: _ :: _, _ => rfl

/-! Every run. -/

/-- Settles O10: each step of internal emulation completes the transaction at the head of the queue, and at the end of the
queue a step changes nothing. -/
theorem internalRunsAreSafe : Obligations.InternalRunsAreSafe := by
  intro n
  induction n with
  | zero => exact fun s ts he hp => ⟨s, rfl, hp, he⟩
  | succ n ih =>
    intro s ts he hp
    cases ts with
    | nil =>
      rw [runs_succ (idleStepChangesNothing s he.1 hp)]
      simpa using ih s [] he hp
    | cons t ts =>
      obtain ⟨d, r, hdone⟩ := step_access_emulating he hp
      rw [runs_succ hdone]
      exact ih (s.done d r) ts (step_preserves_emulating he hdone) (by simp [State.done, hp])

/-- An offer to the peer leaves the configuration as it was. -/
theorem State.offer_cfg {s t : State} {r : PeerRequest} {f : Byte → Option Byte} (h : s.offer r f = .next t) :
    t.cfg = s.cfg := by
  rcases State.offer_cases h with ⟨-, rfl⟩ | ⟨-, ⟨v, rest, -, rfl⟩ | ⟨rest, -, rfl⟩⟩ <;> rfl

/-- No instruction writes the configuration (00_scope.md section 4). -/
theorem exec_cfg {i : Instr} {s t : State} (h : exec i s = .next t) : t.cfg = s.cfg := by
  by_cases hrecord : i.format = .acpiRecord
  · cases i
    case acpiRecB1 => cases h; rfl
    all_goals cases hrecord
  by_cases hrequest : i.format = .bypassRequest
  · cases i
    case bypInit => cases h; rfl
    case bypRead | bypWrite => exact State.offer_cfg h
    all_goals cases hrequest
  obtain ⟨d, r, hdone, -⟩ := exec_internal_done hrecord hrequest s
  cases hdone.symm.trans h
  rfl

/-- Settles O19: no instruction of a step writes it. -/
theorem configurationNeverWritten : Obligations.ConfigurationNeverWritten := fun s _ h =>
  step_preserves (P := fun t => t.cfg = s.cfg) (fun hs _ ht => (exec_cfg ht).trans hs) rfl h

/-- The machine has started, and has sent nothing but reads and writes since the wire stood at `wire`. -/
def State.SentReadsAndWrites (wire : List PeerRequest) (s : State) : Prop :=
  s.bus.started = true ∧ ∃ sent : List PeerRequest, s.bus.wire = wire ++ sent ∧ ∀ r ∈ sent, r.kind = 0x01 ∨ r.kind = 0x02

/-- The request of a transaction is a `Read` or a `Write` (30_encoding.md R69). -/
theorem Transaction.request_kind (t : Transaction) : t.request.kind = 0x01 ∨ t.request.kind = 0x02 := by
  cases t with
  | read port => exact .inl rfl
  | write port value => exact .inr rfl

/-- One more request of a transaction on the wire. -/
theorem State.SentReadsAndWrites.exchanged {wire : List PeerRequest} {s u : State} {t : Transaction}
    (hs : s.SentReadsAndWrites wire) (hstarted : u.bus.started = s.bus.started)
    (hwire : u.bus.wire = s.bus.wire ++ [t.request]) : u.SentReadsAndWrites wire := by
  obtain ⟨hs, sent, hsent, hkinds⟩ := hs
  refine ⟨hstarted.trans hs, sent ++ [t.request], by simp [hwire, hsent], fun r hr => ?_⟩
  rcases List.mem_append.mp hr with hr | hr
  · exact hkinds r hr
  · exact List.mem_singleton.mp hr ▸ t.request_kind

theorem step_preserves_sentReadsAndWrites {wire : List PeerRequest} {s u : State}
    (hs : s.SentReadsAndWrites wire) (h : step s = .next u) : u.SentReadsAndWrites wire := by
  refine step_preserves (fun {s u i} hs hi hexec => ?_) hs h
  rcases fetch_run hi with ⟨hnot, -⟩ | ⟨hstarted, a, rest, t, -, -, rfl⟩
  · simp [hs.1] at hnot
  cases hb : s.dev.bypassActive with
  | false =>
    rw [decodeTransaction_of_inactive hb] at hexec
    obtain ⟨hrecord, hrequest⟩ := routePort_internal s.cfg s.dev.protocolState t
    obtain ⟨d, r, hdone, -⟩ := exec_internal_done hrecord hrequest s
    cases hdone.symm.trans hexec
    exact hs
  | true =>
    obtain ⟨f, hoffer⟩ := exec_bypassRequest t
    rw [decodeTransaction_of_active hb, hoffer] at hexec
    rcases State.offer_cases hexec with ⟨-, rfl⟩ | ⟨-, ⟨v, answers, -, rfl⟩ | ⟨answers, -, rfl⟩⟩
    · exact hs
    · exact hs.exchanged rfl rfl
    · exact hs.exchanged rfl rfl

/-- Settles O18: a run starts with nothing sent since its first state, and no step of it sends `Init`. -/
theorem handshakeNeverRepeated : Obligations.HandshakeNeverRepeated := fun _ s _ hstarted h =>
  runs_preserves step_preserves_sentReadsAndWrites (P := State.SentReadsAndWrites s.bus.wire)
    ⟨hstarted, [], by simp, by simp⟩ h

theorem step_started {s u : State} (hstarted : s.bus.started = true) (h : step s = .next u) : u.bus.started = true :=
  (step_preserves_sentReadsAndWrites (wire := s.bus.wire) ⟨hstarted, [], by simp, by simp⟩ h).1

/-- A step after which the bypass is still active has left the device as it was (40_bypass.md R85). -/
theorem step_dev_of_active {s u : State} (hstarted : s.bus.started = true) (h : step s = .next u)
    (hactive : u.dev.bypassActive = true) : u.dev = s.dev := by
  have hbefore := bypassNeverReactivated s u hstarted h hactive
  rcases step_dev_cases h with ⟨b, hdev⟩ | ⟨t, rest, e, -, -, hdev, hexec⟩
  · obtain rfl : b = true := by simpa [hdev] using hactive
    rw [hdev, ← hbefore]
  · obtain ⟨hrecord, hrequest⟩ := routePort_internal s.cfg s.dev.protocolState t
    obtain ⟨d, r, hdone, hinactive⟩ := exec_internal_done hrecord hrequest e
    cases hdone.symm.trans hexec
    have hd : d.bypassActive = true := hactive
    simp [hinactive, hdev] at hd

/-- Settles O16: the bypass is active at the end of a run only where it was active all along, and every such step kept the
device. -/
theorem deviceUntouchedWhileBypassed : Obligations.DeviceUntouchedWhileBypassed := by
  intro n
  induction n with
  | zero => intro s t _ h _; cases h; rfl
  | succ n ih =>
    intro s t hstarted h hactive
    obtain ⟨u, hstep, hrun⟩ := runs_succ_next h
    have hrest : t.dev = u.dev := ih u t (step_started hstarted hstep) hrun hactive
    exact hrest.trans (step_dev_of_active hstarted hstep (hrest ▸ hactive))

end Sys2Proof.Machine
end

section
/-! Reset and the invariants (10_state.md sections 9 and 10): each operation of the device keeps them, so every row does, so
every step does. -/

namespace Sys2Proof.Machine

/-! Reset. -/

/-- A space with two presets, by index. -/
theorem Memory.read_two_presets (a b v w : Byte) (hab : a ≠ b) (j : Byte) :
    ((Memory.empty.write a v).write b w).read j = if j = a then v else if j = b then w else 0x00 := by
  simp only [Memory.read_write, Memory.read_empty, @eq_comm _ _ j]
  split_ifs <;> simp_all

/-- Settles O11: the two presets of each space lie at different indices, and every other element is its reset value. -/
theorem resetValues : Obligations.ResetValues := by
  intro c hc
  obtain ⟨-, hindices⟩ := hc
  refine ⟨rfl, rfl, ?_, ?_, rfl, rfl, rfl, rfl, rfl, rfl, rfl, rfl, rfl, rfl, rfl, rfl⟩
  · exact Memory.read_two_presets 0x10 0xE5 _ _ (by decide)
  · exact Memory.read_two_presets _ _ _ _ hindices

/-- Settles O12: at reset nothing is staged, every cursor is 0, and no address is complete. -/
theorem resetMeetsInvariants : Obligations.ResetMeetsInvariants := by
  refine ⟨fun c => ?_, rfl⟩
  exact
    { commandRegister := .inl rfl
      nothingStaged := fun _ => rfl
      projectCursor := Nat.zero_le _
      versionCursor := Nat.zero_le _
      jedecCursor := Nat.zero_le _
      completeAtZero := nofun
      latched := nofun
      eraseIncomplete := nofun
      readComplete := nofun
      acpiSpace := Memory.wf_cells _
      superioRegisters := Memory.wf_cells _ }

/-! Each operation of the device keeps the invariants. -/

section
variable {c : Config} {d : Device}

theorem setObf_of_zero_or_one {r : Byte} (h : r = 0x00 ∨ r = 0x01) : setObf r = 0x01 := by
  rcases h with rfl | rfl <;> rfl

theorem clearObf_of_zero_or_one {r : Byte} (h : r = 0x00 ∨ r = 0x01) : clearObf r = 0x00 := by
  rcases h with rfl | rfl <;> rfl

/-- Entering a state that says nothing of the accumulator. -/
theorem Device.Consistent.enter (h : d.Consistent c) {p : ProtocolState} (herase : p ≠ .spiSectorEraseAddress)
    (hread : p ≠ .spiHsReadData) : (d.enter p).Consistent c :=
  { h with
    eraseIncomplete := fun hp => absurd hp herase
    readComplete := fun hp => absurd hp hread }

theorem Device.Consistent.stage (h : d.Consistent c) (v : Byte) : (d.stage v).Consistent c :=
  { h with
    commandRegister := .inr (setObf_of_zero_or_one h.commandRegister)
    nothingStaged := fun hobf => absurd hobf (by simp) }

theorem Device.Consistent.unstage (h : d.Consistent c) : d.unstage.Consistent c :=
  { h with
    commandRegister := .inl (clearObf_of_zero_or_one h.commandRegister)
    nothingStaged := fun _ => rfl }

/-- A cursor moves over a character only, so it stays in its string (10_state.md R27). -/
theorem Device.Consistent.autoStage (h : d.Consistent c) : (d.autoStage c).Consistent c := by
  rcases Device.autoStage_cases c d with hnone | ⟨-, -, ⟨hchar, hnext⟩ | ⟨-, hend⟩⟩ | ⟨-, -, ⟨hchar, hnext⟩ | ⟨-, hend⟩⟩
  · rwa [hnone]
  · rw [hnext]
    exact { h.stage _ with projectCursor := lt_length_of_charAt hchar }
  · rw [hend]
    exact (h.stage _).enter nofun nofun
  · rw [hnext]
    exact { h.stage _ with versionCursor := lt_length_of_charAt hchar }
  · rw [hend]
    exact (h.stage _).enter nofun nofun

/-- A fresh accumulator, in any state but the one that holds a complete address. -/
theorem Device.Consistent.accReset_enter (h : d.Consistent c) {p : ProtocolState} (hread : p ≠ .spiHsReadData) :
    (d.accReset.enter p).Consistent c :=
  { h with
    completeAtZero := nofun
    latched := nofun
    eraseIncomplete := fun _ => rfl
    readComplete := fun hp => absurd hp hread }

/-- While bytes are counted the address is not complete (10_state.md R28). -/
theorem Device.Consistent.incomplete_of_counting (h : d.Consistent c) (hcount : 0 < d.spiAddressRemaining.val) :
    d.spiAddressComplete = false := by
  by_contra hcomplete
  have hzero := h.completeAtZero (by simpa using hcomplete)
  simp [hzero] at hcount

theorem Device.Consistent.takeAddressByte_counting (h : d.Consistent c) (v : Byte)
    (hcount : 0 < d.spiAddressRemaining.val) : (d.takeAddressByte v).Consistent c := by
  have hincomplete := h.incomplete_of_counting hcount
  rw [Device.takeAddressByte_counting v hcount]
  exact
    { h with
      completeAtZero := fun hcomplete => absurd hcomplete (by simp [hincomplete])
      latched := fun hcomplete => absurd hcomplete (by simp [hincomplete]) }

/-- The last byte completes and latches the address, in any state but the erase address phase, which it ends. -/
theorem Device.Consistent.takeAddressByte_last (h : d.Consistent c) (v : Byte) (hlast : d.spiAddressRemaining.val = 0)
    {p : ProtocolState} (hp : p ≠ .spiSectorEraseAddress) : ((d.takeAddressByte v).enter p).Consistent c := by
  rw [Device.takeAddressByte_last v hlast]
  exact
    { h with
      completeAtZero := fun _ => Fin.ext hlast
      latched := fun _ => rfl
      eraseIncomplete := fun hq => absurd hq hp
      readComplete := fun _ => rfl }

theorem Device.Consistent.stageJedec (h : d.Consistent c) : (d.stageJedec c).Consistent c := by
  rcases Device.stageJedec_cases c d with ⟨hlt, hnext⟩ | ⟨-, hnone⟩
  · rw [hnext]
    exact { h.stage _ with jedecCursor := hlt }
  · rwa [hnone]

theorem Device.Consistent.writePhase (h : d.Consistent c) : (writePhase d).Consistent c := by
  rcases writePhase_cases d with ⟨-, hopen⟩ | ⟨-, hopen⟩ | ⟨-, hopen⟩ | hnone
  · exact hopen ▸ h.enter nofun nofun
  · exact hopen ▸ h.accReset_enter nofun
  · exact hopen ▸ h.accReset_enter nofun
  · rwa [hnone]

theorem Device.Consistent.readPhase (h : d.Consistent c) : (readPhase c d).Consistent c := by
  rcases readPhase_cases c d with ⟨-, hstage⟩ | ⟨-, hstage⟩ | ⟨-, hstage⟩ | hnone
  · exact hstage ▸ h.stage _
  · exact hstage ▸ h.stageJedec
  · exact hstage ▸ h.stage _
  · rwa [hnone]

end

/-! Each row keeps them. -/

theorem State.Inv.execFlAddrSe {s t : State} (hs : s.Inv) {v : Byte} (h : execFlAddrSe v s = .next t) : t.Inv := by
  unfold Machine.execFlAddrSe at h
  split_ifs at h with hcount
  · cases h
    exact Device.Consistent.takeAddressByte_counting hs v hcount
  · cases h
    exact Device.Consistent.takeAddressByte_last hs v (by omega) nofun

/-- The address phase of a high-speed read is the one state in which its row takes a byte (45_spi_flash.md R173). -/
theorem State.Inv.execFlAddrHs {s t : State} (hs : s.Inv) (hp : s.dev.protocolState = .spiHsReadAddress) {v : Byte}
    (h : execFlAddrHs v s = .next t) : t.Inv := by
  unfold Machine.execFlAddrHs at h
  split_ifs at h with hcomplete
  · cases h
    exact { hs with eraseIncomplete := nofun, readComplete := fun _ => hcomplete }
  · cases h
    rcases Nat.eq_zero_or_pos s.dev.spiAddressRemaining.val with hlast | hcount
    · have hkept : (s.dev.takeAddressByte v).enter .spiHsReadAddress = s.dev.takeAddressByte v := by
        rw [← hp, ← Device.takeAddressByte_protocolState s.dev v]
        rfl
      exact hkept ▸ Device.Consistent.takeAddressByte_last hs v hlast (p := .spiHsReadAddress) nofun
    · exact Device.Consistent.takeAddressByte_counting hs v hcount

theorem State.Inv.offer {s t : State} (hs : s.Inv) {r : PeerRequest} {f : Byte → Option Byte}
    (h : s.offer r f = .next t) : t.Inv := by
  rcases State.offer_cases h with ⟨-, rfl⟩ | ⟨-, ⟨v, rest, -, rfl⟩ | ⟨rest, -, rfl⟩⟩
  · exact hs
  · exact hs
  · exact { hs with }

/-- Every row keeps the invariants, the address byte of a high-speed read in its own protocol state. -/
theorem State.Inv.exec {i : Instr} {s t : State} (hs : s.Inv)
    (hphase : ∀ v, i = .flAddrHs v → s.dev.protocolState = .spiHsReadAddress) (h : exec i s = .next t) : t.Inv := by
  have hd : s.dev.Consistent s.cfg := hs
  cases i
  case sioRaddr | sioRdata | ecRstatus | ecUnrecognised | ecDataIgnored => cases h; exact hd
  case spiUnrecognised | flUnrecognised | flAaiData | flDataIgnored => cases h; exact hd
  case portUnsupported t => cases t <;> cases h <;> exact hd
  case sioWaddr => cases h; exact { hd with }
  case sioWdata => cases h; exact { hd with superioRegisters := Memory.wf_cells _ }
  case ecRdata => cases h; exact hd.autoStage.unstage
  case ecGetAcpi | ecSetAcpi | ecSpiFollow | ecVendorDe | ecVendorF0 => cases h; exact hd.enter nofun nofun
  case spiFollow | spiCommand | spiUnfollow | flWrsr | flRdsr | flAai => cases h; exact hd.enter nofun nofun
  case ecGetProject =>
    cases h
    exact { hd.enter (p := .getProject) nofun nofun with projectCursor := Nat.zero_le _ }
  case ecGetVersion =>
    cases h
    exact { hd.enter (p := .getVersion) nofun nofun with versionCursor := Nat.zero_le _ }
  case flRdid =>
    cases h
    exact { hd.enter (p := .spiReadJedec) nofun nofun with jedecCursor := Nat.zero_le _ }
  case ecVendorDc | acpiGetIndex => cases h; exact (hd.stage _).enter nofun nofun
  case acpiSetIndex => cases h; exact { hd.enter (p := .setAcpiIndex) nofun nofun with }
  case acpiSetValue => cases h; exact { hd.enter (p := .idle) nofun nofun with acpiSpace := Memory.wf_cells _ }
  case acpiRecB1 => cases h; exact { hd with acpiSpace := Memory.wf_cells _ }
  case spiWritePhase => cases h; exact hd.writePhase
  case spiReadPhase => cases h; exact hd.readPhase
  case flWrdi | flWren => cases h; exact { hd.enter (p := .spiFollow) nofun nofun with }
  case flStatusData => cases h; exact { hd.enter (p := .spiWriteStatus) nofun nofun with }
  case flHsread | flSe | flSeD7 => cases h; exact hd.accReset_enter nofun
  case flAddrSe v => exact hs.execFlAddrSe h
  case flAddrHs v => exact hs.execFlAddrHs (hphase v rfl) h
  case bypInit => cases h; exact { hd with }
  case bypRead | bypWrite => exact hs.offer h

/-- The read address byte is fetched in the read address phase only (30_encoding.md R64). -/
theorem protocolState_of_fetch_flAddrHs {s : State} {v : Byte} (h : fetch s = .run (.flAddrHs v)) :
    s.dev.protocolState = .spiHsReadAddress := by
  rcases fetch_run h with ⟨-, hinit⟩ | ⟨-, a, rest, t, -, -, hdecode⟩
  · cases hinit
  · obtain ⟨-, hselected, -⟩ := hdecode ▸ decodeTransaction_applies s.decodeContext t
    simp only [Instr.selectedBy, Instr.format, Instr.inState, Bool.and_eq_true, decide_eq_true_eq] at hselected
    exact hselected.2

/-- Settles O13: every fetched row keeps the invariants, the address byte of a high-speed read in the phase it is fetched
in. -/
theorem stepKeepsInvariants : Obligations.StepKeepsInvariants := fun _ _ hs h =>
  step_preserves (P := State.Inv)
    (fun hs hi ht => hs.exec (fun _ hv => protocolState_of_fetch_flAddrHs (hv ▸ hi)) ht) hs h

end Sys2Proof.Machine
end

section
/-! What each row does (42_acpi.md to 45_spi_flash.md): the value write and the command record byte by byte, the data-port
read with and without a string character, the two phases and the address bytes by protocol state and counter. -/

namespace Sys2Proof.Machine

/-! Rows whose whole effect is a register, a staged byte or the next protocol state. -/

/-- Settles O26: the row returns `0x00` for a read, nothing for a write. -/
theorem unsupportedPortEffect : Obligations.UnsupportedPortEffect := fun s _ _ =>
  ⟨s.completeRead_eq s.dev 0x00, s.completeWrite_eq s.dev⟩

/-- Settles O27: the byte read is staged and `Idle` entered. -/
theorem acpiGetIndexStages : Obligations.AcpiGetIndexStages := fun s v =>
  s.completeWrite_eq ((s.dev.stage (s.dev.acpiSpace.read v)).enter .idle)

/-- Settles O28: the index register is written and the value phase entered. -/
theorem acpiSetIndexCaptures : Obligations.AcpiSetIndexCaptures := fun s v =>
  s.completeWrite_eq (Device.enter { s.dev with acpiIndex := v } .setAcpiIndex)

/-- Settles O38: each of the five rows enters its state. -/
theorem ecCommandsEnterStates : Obligations.EcCommandsEnterStates := fun s =>
  ⟨s.completeWrite_eq (s.dev.enter .getAcpi), s.completeWrite_eq (s.dev.enter .setAcpi),
    s.completeWrite_eq (s.dev.enter .spiFollow), s.completeWrite_eq (s.dev.enter .idle),
    s.completeWrite_eq (s.dev.enter .idle)⟩

/-- Settles O39: each of the two rows clears its cursor and enters its state. -/
theorem stringCommandsRestart : Obligations.StringCommandsRestart := fun s =>
  ⟨s.completeWrite_eq (Device.enter { s.dev with projectCursor := 0 } .getProject),
    s.completeWrite_eq (Device.enter { s.dev with versionCursor := 0 } .getVersion)⟩

/-- Settles O40: the vendor response is staged and `Idle` entered. -/
theorem vendorQueryStages : Obligations.VendorQueryStages := fun s =>
  s.completeWrite_eq ((s.dev.stage vendorResponse).enter .idle)

/-- Settles O42: each of the five rows completes its write with the device it found. -/
theorem ignoredBytesChangeNothing : Obligations.IgnoredBytesChangeNothing := fun s _ =>
  have hkept := s.completeWrite_eq s.dev
  ⟨hkept, hkept, hkept, hkept, hkept⟩

/-- Settles O53: the three rows reset the accumulator and enter their states, the second and the third the same one. -/
theorem addressOpcodesResetAccumulator : Obligations.AddressOpcodesResetAccumulator := fun s =>
  ⟨s.completeWrite_eq (s.dev.accReset.enter .spiHsRead), s.completeWrite_eq (s.dev.accReset.enter .spiSectorErase), rfl⟩

/-! The command record. -/

/-- The one recognised address, by its two bytes (42_acpi.md R104). -/
theorem lookupB1_addr16 (d1 d2 : Byte) : lookupB1 (addr16 d1 d2) = if d1 ++ d2 = 0x2002#16 then 0x06 else 0x00 := by
  rw [addr16_eq_append]
  rfl

/-- A value write at any index but the record's is a store (42_acpi.md R102). -/
theorem storeAcpi_of_ne {i : Byte} (hi : i ≠ 0xF8) (m : Memory) (v : Byte) : storeAcpi m i v = m.write i v :=
  if_neg hi

/-- At the record's index the store comes first, then the interpreter (decision D30). -/
theorem storeAcpi_recordIndex (m : Memory) (v : Byte) : storeAcpi m 0xF8 v = interpretRecord (m.write 0xF8 v) :=
  if_pos rfl

/-- Settles O29: at `0xF8` the interpreter changes at most the byte at `0xF9`, elsewhere the store alone runs. -/
theorem acpiSetValueStores : Obligations.AcpiSetValueStores := by
  refine fun s v => ⟨_, rfl, fun hindex j => ?_, fun hindex j => ?_⟩
  · rw [storeAcpi_of_ne hindex, Memory.read_write]
    simp only [eq_comm]
  · rw [hindex, storeAcpi_recordIndex, read_interpretRecord]
    simp only [Memory.read_write, lookupB1_addr16, @eq_comm _ _ j]
    split_ifs <;> simp_all

/-- The interpreted record: the response in place of `d1` where `d3` is `0x00` (42_acpi.md R103). -/
theorem answeredRecord_b1 (d1 d2 d3 d4 d5 : Byte) : answeredRecord { cmd := 0xB1, d1, d2, d3, d4, d5 } =
    { cmd := 0xB1, d1 := if d3 = 0x00 then lookupB1 (addr16 d1 d2) else d1, d2, d3, d4, d5 } := by
  simp only [answeredRecord, true_and]
  split_ifs <;> rfl

/-- Settles O30: the write-back changes the six bytes of the window, with the response in place of `d1` where `d3` is
`0x00`. -/
theorem commandRecordAnswers : Obligations.CommandRecordAnswers := by
  refine fun s d1 d2 d3 d4 d5 => ⟨_, rfl, fun j => ?_⟩
  rw [read_writeRecord, answeredRecord_b1, ← lookupB1_addr16]

/-- The window read as a record with another `cmd` is left alone (42_acpi.md R103). -/
theorem interpretRecord_of_unrecognised {m : Memory} (h : m.read 0xF8 ≠ 0xB1) : interpretRecord m = m :=
  Memory.ext_read fun j => (read_interpretRecord m j).trans (if_neg fun ⟨_, hcmd, _⟩ => h hcmd)

/-- The window read as a recognised record is answered and written back (42_acpi.md R103). -/
theorem interpretRecord_of_recognised {m : Memory} (h : m.read 0xF8 = 0xB1) :
    interpretRecord m = writeRecord m (answeredRecord
      { cmd := 0xB1, d1 := m.read 0xF9, d2 := m.read 0xFA, d3 := m.read 0xFB, d4 := m.read 0xFC, d5 := m.read 0xFD }) := by
  rw [interpretRecord, recordOf, h]

/-- Six bytes decode to a record exactly when the first is its command (30_encoding.md R68). -/
theorem decodeRecord_ok_iff {cmd d1 d2 d3 d4 d5 : Byte} {i : Instr} :
    decodeRecord cmd d1 d2 d3 d4 d5 = .ok i ↔ cmd = 0xB1 ∧ i = .acpiRecB1 d1 d2 d3 d4 d5 := by
  unfold decodeRecord
  split_ifs with hcmd
  · simp only [hcmd, true_and, Except.ok.injEq, eq_comm]
  · simp only [hcmd, false_and]

/-- Settles O31: the interpreter is the record's row on the stored window where the window decodes, and nothing where it
does not. -/
theorem recordRunsInsideValueWrite : Obligations.RecordRunsInsideValueWrite := by
  intro s v hindex stored window
  have hstore : storeAcpi s.dev.acpiSpace s.dev.acpiIndex v = interpretRecord stored.dev.acpiSpace := by
    rw [hindex]
    exact storeAcpi_recordIndex s.dev.acpiSpace v
  have hwrite : exec (.acpiSetValue v) s = .next (stored.done
      { stored.dev with acpiSpace := interpretRecord stored.dev.acpiSpace, protocolState := .idle } none) := by
    simp only [exec, execAcpiSetValue, hstore]
    rfl
  refine ⟨fun i hi => ?_, fun e he => ?_⟩
  · obtain ⟨hcmd, rfl⟩ := decodeRecord_ok_iff.mp hi
    rw [interpretRecord_of_recognised hcmd] at hwrite
    exact ⟨_, rfl, hwrite⟩
  · have hcmd : stored.dev.acpiSpace.read 0xF8 ≠ 0xB1 := fun hcmd => by
      cases he.symm.trans (decodeRecord_ok_iff.mpr ⟨hcmd, rfl⟩)
    rw [interpretRecord_of_unrecognised hcmd] at hwrite
    exact hwrite

/-! The data-port read. -/

/-- No string character is due: a byte is staged, or the state is no string state (43_ec_dispatch.md R117). -/
theorem Device.autoStage_eq_self {d : Device} (h : obf d.commandRegister = true ∨
    (d.protocolState ≠ .getProject ∧ d.protocolState ≠ .getVersion)) (c : Config) : d.autoStage c = d := by
  rcases h with hobf | ⟨hproject, hversion⟩
  · simp [Device.autoStage, hobf]
  · simp [Device.autoStage, hproject, hversion]

/-- The mask of `OBF` is bit 0 alone. -/
theorem getLsbD_clearObf (r : Byte) (b : Nat) : (clearObf r).getLsbD b = if b = 0 then false else r.getLsbD b := by
  have hmask : (0xFE : Byte) = ~~~BitVec.twoPow 8 0 := rfl
  rw [clearObf, hmask, BitVec.getLsbD_and, BitVec.getLsbD_not, BitVec.getLsbD_twoPow]
  split_ifs with hb
  · simp [hb]
  · simpa [Ne.symm hb] using BitVec.lt_of_getLsbD

theorem getLsbD_setObf (r : Byte) (b : Nat) : (setObf r).getLsbD b = if b = 0 then true else r.getLsbD b := by
  have hmask : (0x01 : Byte) = BitVec.twoPow 8 0 := rfl
  rw [setObf, hmask, BitVec.getLsbD_or, BitVec.getLsbD_twoPow]
  split_ifs with hb
  · simp [hb]
  · simp [Ne.symm hb]

/-- Clearing a flag that is clear changes nothing. -/
theorem clearObf_of_obf_false {r : Byte} (h : obf r = false) : clearObf r = r := by
  refine BitVec.eq_of_getLsbD_eq fun b _ => ?_
  rw [getLsbD_clearObf]
  split_ifs with hb
  · rw [hb]; exact h.symm
  · rfl

/-- Staging a byte and taking it leaves a clear flag as it was. -/
theorem clearObf_setObf_of_obf_false {r : Byte} (h : obf r = false) : clearObf (setObf r) = r := by
  refine BitVec.eq_of_getLsbD_eq fun b _ => ?_
  rw [getLsbD_clearObf, getLsbD_setObf]
  split_ifs with hb
  · rw [hb]; exact h.symm
  · rfl

/-- With nothing staged there is nothing to clear (10_state.md R29). -/
theorem Device.Consistent.unstage_eq_self {c : Config} {d : Device} (h : d.Consistent c)
    (hobf : obf d.commandRegister = false) : d.unstage = d := by
  rw [Device.unstage, clearObf_of_obf_false hobf, ← h.nothingStaged hobf]

/-- The data-port read where no string character is due returns the staged byte and clears it (43_ec_dispatch.md R117). -/
theorem exec_ecRdata_of_autoStage_eq {s : State} (h : s.dev.autoStage s.cfg = s.dev) :
    exec .ecRdata s = .next (s.done s.dev.unstage (some s.dev.dataRegister)) := by
  simp only [exec, execEcRdata, h]
  rfl

/-- Settles O35: no character is due, so the read takes the staged byte, and with nothing staged it finds `0x00`. -/
theorem dataPortReadReturnsStaged : Obligations.DataPortReadReturnsStaged := by
  intro s hnone
  have hread := exec_ecRdata_of_autoStage_eq (Device.autoStage_eq_self hnone s.cfg)
  refine ⟨hread, fun hs hobf => ?_⟩
  rw [hread, Device.Consistent.unstage_eq_self hs hobf, Device.Consistent.nothingStaged hs hobf]

/-! The data-port read of a string. -/

/-- The string that is read out in a readout of the version or of the project string. -/
def readoutString (version : Bool) (c : Config) : IdString := if version then c.versionString else c.projectString

/-- The protocol state of that readout. -/
def readoutState (version : Bool) : ProtocolState := if version then .getVersion else .getProject

/-- The cursor of that readout. -/
def Device.readoutCursor (version : Bool) (d : Device) : Nat := if version then d.versionCursor else d.projectCursor

/-- The device with the cursor of that readout at a place. -/
def Device.seek (version : Bool) (d : Device) (n : Nat) : Device :=
  if version then { d with versionCursor := n } else { d with projectCursor := n }

/-- Inside the string the auto-stage stages the next character and moves the cursor (43_ec_dispatch.md R118, R119). -/
theorem Device.autoStage_inside {version : Bool} {c : Config} {d : Device} (hobf : obf d.commandRegister = false)
    (hstate : d.protocolState = readoutState version)
    (h : d.readoutCursor version < (readoutString version c).chars.length) :
    d.autoStage c = (d.stage (readoutString version c).chars[d.readoutCursor version]).seek version
      (d.readoutCursor version + 1) := by
  have hchar := charAt_of_lt h
  have hne := charAt_ne_zero h
  rw [← hchar]
  cases version
  · have hp : d.protocolState = .getProject := hstate
    exact (if_pos ⟨hp, hobf⟩).trans (if_pos hne)
  · have hp : d.protocolState = .getVersion := hstate
    exact (if_neg fun ⟨hproject, _⟩ => by simp [hp] at hproject).trans ((if_pos ⟨hp, hobf⟩).trans (if_pos hne))

/-- At the end of the string the auto-stage stages the terminator and leaves the readout (decision D26). -/
theorem Device.autoStage_atEnd {version : Bool} {c : Config} {d : Device} (hobf : obf d.commandRegister = false)
    (hstate : d.protocolState = readoutState version)
    (h : d.readoutCursor version = (readoutString version c).chars.length) :
    d.autoStage c = (d.stage terminator).enter .idle := by
  have hchar : charAt (readoutString version c) (d.readoutCursor version) = 0x00 := by rw [h, charAt_length]
  cases version
  · have hp : d.protocolState = .getProject := hstate
    exact (if_pos ⟨hp, hobf⟩).trans (if_neg (not_not.mpr hchar))
  · have hp : d.protocolState = .getVersion := hstate
    exact (if_neg fun ⟨hproject, _⟩ => by simp [hp] at hproject).trans
      ((if_pos ⟨hp, hobf⟩).trans (if_neg (not_not.mpr hchar)))

/-- The device with an empty data register. -/
def Device.emptied (d : Device) : Device := { d with dataRegister := 0x00 }

/-- A byte staged and taken at once, where none was staged before, leaves the data register empty (decision D4). -/
theorem Device.unstage_stage {d : Device} (hobf : obf d.commandRegister = false) (v : Byte) :
    (d.stage v).unstage = d.emptied := by
  simp only [Device.unstage, Device.stage, Device.emptied, clearObf_setObf_of_obf_false hobf]

/-- With nothing staged the data register is empty (10_state.md R29). -/
theorem Device.Consistent.emptied_eq_self {c : Config} {d : Device} (h : d.Consistent c)
    (hobf : obf d.commandRegister = false) : d.emptied = d := by
  rw [Device.emptied, ← h.nothingStaged hobf]

/-- The data-port read inside a string returns its next character. -/
theorem exec_ecRdata_inside {version : Bool} {s : State} (hobf : obf s.dev.commandRegister = false)
    (hstate : s.dev.protocolState = readoutState version)
    (h : s.dev.readoutCursor version < (readoutString version s.cfg).chars.length) :
    exec .ecRdata s = .next (s.done (s.dev.emptied.seek version (s.dev.readoutCursor version + 1))
      (some (readoutString version s.cfg).chars[s.dev.readoutCursor version])) := by
  rw [← Device.unstage_stage hobf (readoutString version s.cfg).chars[s.dev.readoutCursor version]]
  simp only [exec, execEcRdata, Device.autoStage_inside hobf hstate h]
  cases version <;> rfl

/-- The data-port read at the end of a string returns the terminator and ends the readout. -/
theorem exec_ecRdata_atEnd {version : Bool} {s : State} (hobf : obf s.dev.commandRegister = false)
    (hstate : s.dev.protocolState = readoutState version)
    (h : s.dev.readoutCursor version = (readoutString version s.cfg).chars.length) :
    exec .ecRdata s = .next (s.done (s.dev.emptied.enter .idle) (some 0x24)) := by
  rw [← Device.unstage_stage hobf terminator]
  simp only [exec, execEcRdata, Device.autoStage_atEnd hobf hstate h]
  rfl

/-- Settles O36: under the invariants the staged byte is `0x00` before the read as after it, so only the cursor or the
protocol state changes. -/
theorem stringCharacterRead : Obligations.StringCharacterRead := by
  intro s hs hobf
  have hempty : s.dev.emptied = s.dev := Device.Consistent.emptied_eq_self hs hobf
  have hinside {version} (hstate) (h) := hempty ▸ exec_ecRdata_inside (version := version) hobf hstate h
  have hend {version} (hstate) (h) := hempty ▸ exec_ecRdata_atEnd (version := version) hobf hstate h
  exact ⟨fun hp => ⟨hinside (version := false) hp, hend (version := false) hp⟩,
    fun hp => ⟨hinside (version := true) hp, hend (version := true) hp⟩⟩

/-! The two phases. -/

section
variable {c : Config} {d : Device}

theorem writePhase_spiWriteStatus (hp : d.protocolState = .spiWriteStatus) :
    writePhase d = d.enter .spiWriteStatusData := by simp only [writePhase, hp]

theorem writePhase_spiSectorErase (hp : d.protocolState = .spiSectorErase) :
    writePhase d = d.accReset.enter .spiSectorEraseAddress := by simp only [writePhase, hp]

theorem writePhase_spiHsRead (hp : d.protocolState = .spiHsRead) :
    writePhase d = d.accReset.enter .spiHsReadAddress := by simp only [writePhase, hp]

theorem readPhase_spiReadStatus (hp : d.protocolState = .spiReadStatus) : readPhase c d = d.stage d.spiStatus := by
  simp only [readPhase, hp]

theorem readPhase_spiReadJedec (hp : d.protocolState = .spiReadJedec) : readPhase c d = d.stageJedec c := by
  simp only [readPhase, hp]

theorem readPhase_spiHsReadData (hp : d.protocolState = .spiHsReadData) : readPhase c d = d.stage filler := by
  simp only [readPhase, hp]

/-- While an ID byte remains it is staged and the cursor moves (decision D29). -/
theorem Device.stageJedec_below (h : d.spiJedecCursor < 4) :
    d.stageJedec c = { d.stage c.jedecId[d.spiJedecCursor] with spiJedecCursor := d.spiJedecCursor + 1 } := dif_pos h

/-- With no ID byte left nothing is staged. -/
theorem Device.stageJedec_exhausted (h : 4 ≤ d.spiJedecCursor) : d.stageJedec c = d := dif_neg (by omega)

end

theorem exec_spiWritePhase {s : State} {d : Device} (h : writePhase s.dev = d) :
    exec .spiWritePhase s = .next (s.done d none) := h ▸ s.completeWrite_eq (writePhase s.dev)

theorem exec_spiReadPhase {s : State} {d : Device} (h : readPhase s.cfg s.dev = d) :
    exec .spiReadPhase s = .next (s.done d none) := h ▸ s.completeWrite_eq (readPhase s.cfg s.dev)

/-- Settles O48: three states open a phase, and in every other the device is as it was. -/
theorem writePhaseOpens : Obligations.WritePhaseOpens := by
  refine fun s => ⟨fun hp => exec_spiWritePhase (writePhase_spiWriteStatus hp),
    fun hp => exec_spiWritePhase (writePhase_spiSectorErase hp),
    fun hp => exec_spiWritePhase (writePhase_spiHsRead hp), fun hp => exec_spiWritePhase ?_⟩
  rcases writePhase_cases s.dev with ⟨hstatus, -⟩ | ⟨herase, -⟩ | ⟨hread, -⟩ | hnone
  · simp [hstatus] at hp
  · simp [herase] at hp
  · simp [hread] at hp
  · exact hnone

/-- Settles O49: three states stage a byte, the ID readout by its cursor, and in every other the device is as it was. -/
theorem readPhaseStages : Obligations.ReadPhaseStages := by
  refine fun s => ⟨fun hp => exec_spiReadPhase (readPhase_spiReadStatus hp),
    fun hp => ⟨fun h => exec_spiReadPhase ((readPhase_spiReadJedec hp).trans (Device.stageJedec_below h)),
      fun h => exec_spiReadPhase ((readPhase_spiReadJedec hp).trans (Device.stageJedec_exhausted h))⟩,
    fun hp => exec_spiReadPhase (readPhase_spiHsReadData hp), fun hp => exec_spiReadPhase ?_⟩
  rcases readPhase_cases s.cfg s.dev with ⟨hstatus, -⟩ | ⟨hjedec, -⟩ | ⟨hread, -⟩ | hnone
  · simp [hstatus] at hp
  · simp [hjedec] at hp
  · simp [hread] at hp
  · exact hnone

/-! The address bytes. -/

/-- The byte that finds the counter at 0 completes the address with itself in slot 0 (decision D15). -/
theorem Device.takeAddressByte_atZero {d : Device} (h : d.spiAddressRemaining = 0) (v : Byte) :
    d.takeAddressByte v = { d with
      spiAddressBytes := d.spiAddressBytes.set 0 v
      spiAddressComplete := true
      spiAddress := v ++ d.spiAddressBytes[1] ++ d.spiAddressBytes[2] ++ d.spiAddressBytes[3] } := by
  have hbytes : d.storedAddressBytes v = d.spiAddressBytes.set 0 v := by simp [Device.storedAddressBytes, h]
  rw [Device.takeAddressByte_last v (congrArg Fin.val h), hbytes, assembleAddress_eq_append]
  simp

/-- A byte that finds the counter above 0 goes into the slot it names (decision D14). -/
theorem Device.takeAddressByte_above {d : Device} {n : Fin 4} (h : d.spiAddressRemaining = n) (hn : n.val ≠ 0) (v : Byte) :
    d.takeAddressByte v = { d with
      spiAddressBytes := d.spiAddressBytes.set n.val v n.isLt
      spiAddressRemaining := n - 1 } := by
  subst h
  exact Device.takeAddressByte_counting v (Nat.pos_of_ne_zero hn)

/-- Settles O56: the row ends the address phase exactly when it finds the counter at 0. -/
theorem eraseAddressByte : Obligations.EraseAddressByte := by
  refine fun s v => ⟨fun n h hn => ?_, fun h => ?_⟩
  · rw [← Device.takeAddressByte_above h hn]
    exact if_pos (h ▸ Nat.pos_of_ne_zero hn)
  · have hlast := Device.takeAddressByte_atZero h v
    have hrow : exec (.flAddrSe v) s = s.completeWrite ((s.dev.takeAddressByte v).enter .spiFollow) :=
      if_neg (by simp [h])
    rw [hrow, hlast]
    rfl

/-- Settles O57: the row takes address bytes until the address is complete, and then the dummy byte. -/
theorem readAddressByte : Obligations.ReadAddressByte := by
  refine fun s v => ⟨fun hincomplete n h hn => ?_, fun hincomplete h => ?_, fun hcomplete => if_pos hcomplete⟩
  · rw [← Device.takeAddressByte_above h hn]
    exact if_neg (by simp [hincomplete])
  · rw [← Device.takeAddressByte_atZero h]
    exact if_neg (by simp [hincomplete])

end Sys2Proof.Machine
end

section
/-! Who writes what: for one element of the state each, the rows that change it, and from that the transactions a step must
have run where it changed (10_state.md sections 3, 4 and 7). -/

namespace Sys2Proof.Machine

/-! The device after an address byte. -/

theorem exec_flAddrSe_dev {v : Byte} {s t : State} (h : exec (.flAddrSe v) s = .next t) :
    t.dev = s.dev.takeAddressByte v ∨ t.dev = (s.dev.takeAddressByte v).enter .spiFollow := by
  simp only [exec, execFlAddrSe] at h
  split_ifs at h <;> cases h
  · exact .inl rfl
  · exact .inr rfl

theorem exec_flAddrHs_dev {v : Byte} {s t : State} (h : exec (.flAddrHs v) s = .next t) :
    t.dev = s.dev.enter .spiHsReadData ∨ t.dev = s.dev.takeAddressByte v := by
  simp only [exec, execFlAddrHs] at h
  split_ifs at h <;> cases h
  · exact .inl rfl
  · exact .inr rfl

/-! `acpi_space`. -/

/-- The only writers of `acpi_space` are the value write and the command record it runs (42_acpi.md R102, R103). -/
theorem exec_acpiSpace_cases {i : Instr} {s t : State} (h : exec i s = .next t) :
    t.dev.acpiSpace = s.dev.acpiSpace ∨ (∃ v, i = .acpiSetValue v) ∨ i.format = .acpiRecord := by
  cases i
  case acpiSetValue v => exact .inr (.inl ⟨v, rfl⟩)
  case acpiRecB1 => exact .inr (.inr rfl)
  case ecRdata => cases h; exact .inl (Device.autoStage_acpiSpace _ _)
  case spiWritePhase => cases h; exact .inl (writePhase_acpiSpace _)
  case spiReadPhase => cases h; exact .inl (readPhase_acpiSpace _ _)
  case flAddrSe => rcases exec_flAddrSe_dev h with hdev | hdev <;> exact .inl (by simp [hdev])
  case flAddrHs => rcases exec_flAddrHs_dev h with hdev | hdev <;> exact .inl (by simp [hdev])
  case portUnsupported t => cases t <;> cases h <;> exact .inl rfl
  case bypRead | bypWrite => rcases State.offer_dev h with hdev | hdev <;> exact .inl (by rw [hdev])
  all_goals cases h; exact .inl rfl

/-- Settles O32: a row that port routing answers with writes the space only as the value write, which is a data-port write
selected in `SetAcpiIndex`. -/
theorem acpiSpaceWriters : Obligations.AcpiSpaceWriters := by
  intro s u j h hne
  rcases step_dev_cases h with ⟨b, hdev⟩ | ⟨t, rest, e, hpending, -, hdev, hexec⟩
  · exact absurd (by rw [hdev]) hne
  obtain ⟨-, hin, ht⟩ := routePort_row s.cfg s.dev.protocolState t
  rcases exec_acpiSpace_cases hexec with hsame | ⟨v, hrow⟩ | hrecord
  · exact absurd (by rw [hsame, hdev]) hne
  · rw [hrow] at hin ht
    cases ht
    exact ⟨of_decide_eq_true hin, v, rest, hpending⟩
  · exact absurd hrecord (routePort_internal s.cfg s.dev.protocolState t).1

/-! `spi_status`. -/

/-- The only writers of `spi_status` are the two latch opcodes and the status data byte (45_spi_flash.md R162, R164,
R175). -/
theorem exec_spiStatus_cases {i : Instr} {s t : State} (h : exec i s = .next t) :
    t.dev.spiStatus = s.dev.spiStatus ∨ i = .flWrdi ∨ i = .flWren ∨
    ∃ v, i = .flStatusData v ∧ t.dev.spiStatus = v := by
  cases i
  case flWrdi => exact .inr (.inl rfl)
  case flWren => exact .inr (.inr (.inl rfl))
  case flStatusData v => cases h; exact .inr (.inr (.inr ⟨v, rfl, rfl⟩))
  case ecRdata => cases h; exact .inl (Device.autoStage_spiStatus _ _)
  case spiWritePhase => cases h; exact .inl (writePhase_spiStatus _)
  case spiReadPhase => cases h; exact .inl (readPhase_spiStatus _ _)
  case flAddrSe => rcases exec_flAddrSe_dev h with hdev | hdev <;> exact .inl (by simp [hdev])
  case flAddrHs => rcases exec_flAddrHs_dev h with hdev | hdev <;> exact .inl (by simp [hdev])
  case portUnsupported t => cases t <;> cases h <;> exact .inl rfl
  case bypRead | bypWrite => rcases State.offer_dev h with hdev | hdev <;> exact .inl (by rw [hdev])
  all_goals cases h; exact .inl rfl

/-- Settles O60: each of the three rows is a data-port write, selected in its own protocol state. -/
theorem spiStatusWriters : Obligations.SpiStatusWriters := by
  intro s u h hne
  rcases step_dev_cases h with ⟨b, hdev⟩ | ⟨t, rest, e, hpending, -, hdev, hexec⟩
  · exact absurd (by rw [hdev]) hne
  obtain ⟨-, hin, ht⟩ := routePort_row s.cfg s.dev.protocolState t
  rcases exec_spiStatus_cases hexec with hsame | hrow | hrow | ⟨v, hrow, hstatus⟩
  · exact absurd (by rw [hsame, hdev]) hne
  all_goals rw [hrow] at hin ht; cases ht
  · exact ⟨0x04, rest, hpending, .inl ⟨of_decide_eq_true hin, .inl rfl⟩⟩
  · exact ⟨0x06, rest, hpending, .inl ⟨of_decide_eq_true hin, .inr rfl⟩⟩
  · exact ⟨v, rest, hpending, .inr ⟨of_decide_eq_true hin, hstatus⟩⟩

/-! `OBF`. -/

/-- A read phase stages a byte or leaves the register alone (44_spi_control.md R144). -/
theorem readPhase_obf {d : Device} (h : obf d.commandRegister = true) (c : Config) :
    obf (readPhase c d).commandRegister = true := by
  rcases readPhase_cases c d with ⟨-, hr⟩ | ⟨-, hr⟩ | ⟨-, hr⟩ | hr
  · simp [hr]
  · rcases Device.stageJedec_cases c d with ⟨hlt, hj⟩ | ⟨-, hj⟩ <;> simp [hr, hj, h]
  · simp [hr]
  · rwa [hr]

/-- The only row that clears `OBF` is the data-port read (43_ec_dispatch.md R117). -/
theorem exec_obf_cases {i : Instr} {s t : State} (hobf : obf s.dev.commandRegister = true) (h : exec i s = .next t) :
    obf t.dev.commandRegister = true ∨ i = .ecRdata := by
  cases i
  case ecRdata => exact .inr rfl
  case ecVendorDc | acpiGetIndex => cases h; exact .inl (obf_setObf _)
  case spiWritePhase => cases h; exact .inl (by simpa using hobf)
  case spiReadPhase => cases h; exact .inl (readPhase_obf hobf s.cfg)
  case flAddrSe => rcases exec_flAddrSe_dev h with hdev | hdev <;> exact .inl (by simpa [hdev] using hobf)
  case flAddrHs => rcases exec_flAddrHs_dev h with hdev | hdev <;> exact .inl (by simpa [hdev] using hobf)
  case portUnsupported t => cases t <;> cases h <;> exact .inl hobf
  case bypRead | bypWrite => rcases State.offer_dev h with hdev | hdev <;> exact .inl (by rwa [hdev])
  all_goals cases h; exact .inl hobf

/-- Settles O43: the row that clears the flag is the one the data-port read alone routes to. -/
theorem readyFlagClearedOnlyByDataRead : Obligations.ReadyFlagClearedOnlyByDataRead := by
  intro s u h hset hclear
  rcases step_dev_cases h with ⟨b, hdev⟩ | ⟨t, rest, e, hpending, -, hdev, hexec⟩
  · simp [hdev, hset] at hclear
  obtain ⟨-, -, ht⟩ := routePort_row s.cfg s.dev.protocolState t
  rcases exec_obf_cases (by rw [hdev]; exact hset) hexec with hkept | hrow
  · simp [hkept] at hclear
  · rw [hrow] at ht
    cases ht
    exact ⟨rest, hpending⟩

/-! `protocol_state`. -/

/-- The auto-stage leaves the protocol state alone, or ends a string (43_ec_dispatch.md R118, R119). -/
theorem Device.autoStage_protocolState_cases (c : Config) (d : Device) :
    (d.autoStage c).protocolState = d.protocolState ∨
    ((d.autoStage c).protocolState = .idle ∧ obf d.commandRegister = false ∧
      (d.protocolState = .getProject ∨ d.protocolState = .getVersion)) := by
  rcases Device.autoStage_cases c d with hr | ⟨hp, hobf, ⟨-, hr⟩ | ⟨-, hr⟩⟩ | ⟨hp, hobf, ⟨-, hr⟩ | ⟨-, hr⟩⟩
  · exact .inl (by rw [hr])
  · exact .inl (by rw [hr]; rfl)
  · exact .inr ⟨by rw [hr]; rfl, hobf, .inl hp⟩
  · exact .inl (by rw [hr]; rfl)
  · exact .inr ⟨by rw [hr]; rfl, hobf, .inr hp⟩

/-- A read that routes to any row but the data-port read returns a byte and leaves the device alone. -/
theorem exec_routePort_read {c : Config} {p : ProtocolState} {port : Byte}
    (hrow : routePort c p (.read port) ≠ .ecRdata) (s : State) :
    ∃ r, exec (routePort c p (.read port)) s = .next (s.done s.dev (some r)) := by
  simp only [routePort] at hrow ⊢
  split_ifs at hrow ⊢ with hsioAddr hsioData hecData hecCmd
  · exact ⟨_, rfl⟩
  · exact ⟨_, rfl⟩
  · exact absurd rfl hrow
  · exact ⟨_, rfl⟩
  · exact ⟨_, rfl⟩

/-- The row of a data-port read is reached by no other transaction. -/
theorem eq_read_of_routePort_ecRdata {c : Config} {p : ProtocolState} {t : Transaction}
    (h : routePort c p t = .ecRdata) : t = .read c.portEcData := by
  obtain ⟨-, -, ht⟩ := routePort_row c p t
  rw [h] at ht
  cases ht
  rfl

/-- The transactions that change the protocol state are writes to the two EC ports and the data-port read that ends a
string (30_encoding.md section 7). -/
theorem exec_routePort_protocolState_cases {c : Config} {p : ProtocolState} {t : Transaction} {s u : State}
    (h : exec (routePort c p t) s = .next u) :
    u.dev.protocolState = s.dev.protocolState ∨
    (∃ v, t = .write c.portEcCmd v) ∨ (∃ v, t = .write c.portEcData v) ∨
    (t = .read c.portEcData ∧ u.dev.protocolState = .idle ∧ obf s.dev.commandRegister = false ∧
      (s.dev.protocolState = .getProject ∨ s.dev.protocolState = .getVersion)) := by
  cases t with
  | read port =>
    by_cases hrow : routePort c p (.read port) = .ecRdata
    · have ht := eq_read_of_routePort_ecRdata hrow
      rw [hrow] at h
      cases h
      exact (Device.autoStage_protocolState_cases s.cfg s.dev).imp_right fun hend => .inr (.inr ⟨ht, hend⟩)
    · obtain ⟨r, hdone⟩ := exec_routePort_read hrow s
      cases hdone.symm.trans h
      exact .inl rfl
  | write port v =>
    simp only [routePort] at h
    split_ifs at h with hsioAddr hsioData hecData hecCmd
    · cases h; exact .inl rfl
    · cases h; exact .inl rfl
    · exact .inr (.inr (.inl ⟨v, by rw [hecData]⟩))
    · exact .inr (.inl ⟨v, by rw [hecCmd]⟩)
    · cases h; exact .inl rfl

/-- Settles O45: the transaction whose row a step runs is one of the three. -/
theorem protocolStateChangers : Obligations.ProtocolStateChangers := by
  intro s u h hne
  rcases step_dev_cases h with ⟨b, hdev⟩ | ⟨t, rest, e, hpending, -, hdev, hexec⟩
  · exact absurd (by rw [hdev]) hne
  rcases exec_routePort_protocolState_cases hexec with hsame | ⟨v, rfl⟩ | ⟨v, rfl⟩ | ⟨rfl, hidle, hobf, hstring⟩
  · exact absurd (by rw [hsame, hdev]) hne
  · exact .inl ⟨v, rest, hpending⟩
  · exact .inr (.inl ⟨v, rest, hpending⟩)
  · rw [hdev] at hobf hstring
    exact .inr (.inr ⟨hidle, hobf, hstring, rest, hpending⟩)

/-- Settles O44: no other port routes a read to the data-port read. -/
theorem plainReadsChangeNothing : Obligations.PlainReadsChangeNothing := by
  intro s port rest he hport hp
  have hrow : routePort s.cfg s.dev.protocolState (.read port) ≠ .ecRdata := fun hrow => by
    cases eq_read_of_routePort_ecRdata hrow
    exact hport rfl
  obtain ⟨r, hdone⟩ := exec_routePort_read hrow s
  exact ⟨_, r, (step_eq_exec_routePort he hp).trans hdone, rfl, rfl, by simp [State.done, hp]⟩

end Sys2Proof.Machine
end

section
/-! Sequences of transactions: what one transaction makes of the device with the bypass inactive, how a queue of them runs,
and the round trips of 95_test_vectors.md for all operands. -/

namespace Sys2Proof.Machine

/-! How a queue runs. -/

/-- The machine with another device, other accesses waiting and another last result: what transactions can change of it
while the bypass is inactive. -/
def State.reached (s : State) (d : Device) (q : List HostAccess) (r : Option Byte) : State :=
  { s with dev := d, bus := { s.bus with pending := q, result := r } }

/-- Internal emulation of a transaction takes one device to another and returns a result. -/
def State.Performs (s : State) (t : Transaction) (d e : Device) (r : Option Byte) : Prop :=
  ∀ q r₀, exec (routePort s.cfg d.protocolState t) (s.reached d (t.access :: q) r₀) = .next (s.reached e q r)

/-- The transactions of a list, performed in order. -/
inductive State.Serves (s : State) : Device → Option Byte → List Transaction → Device → Option Byte → Prop
  | nil {d : Device} {r : Option Byte} : s.Serves d r [] d r
  | cons {t : Transaction} {ts : List Transaction} {d e f : Device} {r₀ r₁ r : Option Byte} :
    s.Performs t d e r₁ → s.Serves e r₁ ts f r → s.Serves d r₀ (t :: ts) f r

/-- A transaction is performed as the row it routes to executes. -/
theorem State.Performs.of_row {s : State} {t : Transaction} {i : Instr} {d e : Device} {r : Option Byte}
    (hrow : routePort s.cfg d.protocolState t = i)
    (hexec : ∀ q r₀, exec i (s.reached d q r₀) = .next ((s.reached d q r₀).done e r)) : s.Performs t d e r :=
  fun q r₀ => hrow ▸ hexec (t.access :: q) r₀

theorem State.Performs.command {s : State} (hc : s.cfg.WellFormed) {v : Byte} {i : Instr} {d e : Device}
    (hrow : decodeCommandWrite d.protocolState v = i)
    (hexec : ∀ q r₀, exec i (s.reached d q r₀) = .next ((s.reached d q r₀).done e none)) :
    s.Performs (.write s.cfg.portEcCmd v) d e none :=
  .of_row ((routePort_write_portEcCmd hc _ v).trans hrow) hexec

theorem State.Performs.data {s : State} (hc : s.cfg.WellFormed) {v : Byte} {i : Instr} {d e : Device}
    (hrow : decodeDataWrite d.protocolState v = i)
    (hexec : ∀ q r₀, exec i (s.reached d q r₀) = .next ((s.reached d q r₀).done e none)) :
    s.Performs (.write s.cfg.portEcData v) d e none :=
  .of_row ((routePort_write_portEcData hc _ v).trans hrow) hexec

/-- The data-port read outside the string states takes the staged byte. -/
theorem State.Performs.read {s : State} (hc : s.cfg.WellFormed) {d : Device} (hproject : d.protocolState ≠ .getProject)
    (hversion : d.protocolState ≠ .getVersion) :
    s.Performs (.read s.cfg.portEcData) d d.unstage (some d.dataRegister) :=
  .of_row (routePort_read_portEcData hc _) fun q r₀ =>
    exec_ecRdata_of_autoStage_eq (s := s.reached d q r₀) (Device.autoStage_eq_self (.inr ⟨hproject, hversion⟩) s.cfg)

theorem State.Performs.bypassActive {s : State} {t : Transaction} {d e : Device} {r : Option Byte}
    (h : s.Performs t d e r) : e.bypassActive = d.bypassActive := by
  obtain ⟨hrecord, hrequest⟩ := routePort_internal s.cfg d.protocolState t
  obtain ⟨f, r', hdone, hkept⟩ := exec_internal_done hrecord hrequest (s.reached d [t.access] none)
  cases hdone.symm.trans (h [] none)
  exact hkept

theorem State.Serves.append {s : State} {d e f : Device} {r₀ r₁ r : Option Byte} {ts us : List Transaction}
    (h : s.Serves d r₀ ts e r₁) (h' : s.Serves e r₁ us f r) : s.Serves d r₀ (ts ++ us) f r := by
  induction h with
  | nil => exact h'
  | cons hfirst _ ih => exact .cons hfirst (ih h')

/-- With the bypass inactive the transaction at the head of the queue is performed in a step (60_exceptions.md R195). -/
theorem State.Performs.step {s : State} {t : Transaction} {d e : Device} {r : Option Byte} (h : s.Performs t d e r)
    (hstarted : s.bus.started = true) (hb : d.bypassActive = false) (q : List HostAccess) (r₀ : Option Byte) :
    step (s.reached d (t.access :: q) r₀) = .next (s.reached e q r) :=
  (step_eq_exec_routePort (s := s.reached d (t.access :: q) r₀) ⟨hstarted, hb⟩ rfl).trans (h q r₀)

/-- With the bypass inactive a queue runs one transaction a step (20_memory.md R51, R53). -/
theorem State.Serves.runs {s : State} {d e : Device} {r₀ r : Option Byte} {ts : List Transaction}
    (h : s.Serves d r₀ ts e r) (hstarted : s.bus.started = true) (hb : d.bypassActive = false) (rest : List HostAccess) :
    runs ts.length (s.reached d (ts.map Transaction.access ++ rest) r₀) = .next (s.reached e rest r) := by
  induction h with
  | nil => rfl
  | cons hfirst _ ih =>
    exact (runs_succ (hfirst.step hstarted hb _ _)).trans (ih (hfirst.bypassActive.trans hb))

/-- The run of a queue that begins with transactions the machine serves. -/
theorem State.Serves.runs_pending {s : State} {e : Device} {r : Option Byte} {ts : List Transaction}
    {rest : List HostAccess} (h : s.Serves s.dev s.bus.result ts e r) (he : s.Emulating)
    (hp : s.bus.pending = ts.map Transaction.access ++ rest) : Machine.runs ts.length s = .next (s.reached e rest r) := by
  have hself : s.reached s.dev s.bus.pending s.bus.result = s := rfl
  rw [← h.runs he.1 he.2 rest, ← hp, hself]

/-! SuperIO. -/

/-- Settles O24: the second write of the address leaves the selector where the first left it, so the read finds the byte
stored between them. -/
theorem superIoRoundTrip : Obligations.SuperIoRoundTrip := by
  intro s a v rest hc he hp
  have hne := portSioData_ne_portSioAddr hc
  have haddr (d : Device) : s.Performs (.write s.cfg.portSioAddr a) d (d.withSuperIo a d.superioRegisters) none :=
    .of_row (if_pos rfl) fun _ _ => rfl
  have hdata (d : Device) : s.Performs (.write s.cfg.portSioData v) d
      (d.withSuperIo d.superioAddress (d.superioRegisters.write d.superioAddress v)) none :=
    .of_row ((if_neg hne).trans (if_pos rfl)) fun _ _ => rfl
  have hread (d : Device) : s.Performs (.read s.cfg.portSioData) d d (some (d.superioRegisters.read d.superioAddress)) :=
    .of_row ((if_neg hne).trans (if_pos rfl)) fun _ _ => rfl
  have hserves : s.Serves s.dev s.bus.result _ _ _ :=
    .cons (haddr _) (.cons (hdata _) (.cons (haddr _) (.cons (hread _) .nil)))
  exact ⟨_, hserves.runs_pending he hp, congrArg some (Memory.read_write_self _ _ _), rfl, rfl, rfl⟩

/-! ACPI. -/

/-- The byte a value write stored reads back, the record's index included: the interpreter does not write `cmd`. -/
theorem read_storeAcpi_self (m : Memory) (i v : Byte) : (storeAcpi m i v).read i = v := by
  by_cases hi : i = 0xF8
  · subst hi
    rw [storeAcpi_recordIndex, read_interpretRecord, if_neg (by simp), Memory.read_write_self]
  · rw [storeAcpi_of_ne hi, Memory.read_write_self]

/-- The device after a value write: the index captured, the byte stored (42_acpi.md R101, R102). -/
def Device.storing (d : Device) (i v : Byte) : Device :=
  { d with acpiIndex := i, acpiSpace := storeAcpi d.acpiSpace i v }

/-- Outside the SPI states, the command `0x81`, an index and a value store a byte. -/
theorem serves_acpiWrite {s : State} (hc : s.cfg.WellFormed) {d : Device} (hspi : d.protocolState.isSpi = false)
    (i v : Byte) (r : Option Byte) : s.Serves d r
      [.write s.cfg.portEcCmd 0x81, .write s.cfg.portEcData i, .write s.cfg.portEcData v]
      ((d.storing i v).enter .idle) none := by
  have hset : s.Performs (.write s.cfg.portEcCmd 0x81) d (d.enter .setAcpi) none :=
    .command hc (decodeCommandWrite_of_not_isSpi hspi 0x81) fun _ _ => rfl
  have hindex : s.Performs (.write s.cfg.portEcData i) (d.enter .setAcpi)
      (Device.enter { d with acpiIndex := i } .setAcpiIndex) none := .data hc rfl fun _ _ => rfl
  have hvalue : s.Performs (.write s.cfg.portEcData v) (Device.enter { d with acpiIndex := i } .setAcpiIndex)
      ((d.storing i v).enter .idle) none := .data hc rfl fun _ _ => rfl
  exact .cons hset (.cons hindex (.cons hvalue .nil))

/-- Outside the SPI states, the command `0x80`, an index and a read return the byte there. -/
theorem serves_acpiRead {s : State} (hc : s.cfg.WellFormed) {d : Device} (hspi : d.protocolState.isSpi = false)
    (i : Byte) (r : Option Byte) : s.Serves d r
      [.write s.cfg.portEcCmd 0x80, .write s.cfg.portEcData i, .read s.cfg.portEcData]
      ((d.stage (d.acpiSpace.read i)).enter .idle).unstage (some (d.acpiSpace.read i)) := by
  have hget : s.Performs (.write s.cfg.portEcCmd 0x80) d (d.enter .getAcpi) none :=
    .command hc (decodeCommandWrite_of_not_isSpi hspi 0x80) fun _ _ => rfl
  have hstage : s.Performs (.write s.cfg.portEcData i) (d.enter .getAcpi)
      ((d.stage (d.acpiSpace.read i)).enter .idle) none := .data hc rfl fun _ _ => rfl
  exact .cons hget (.cons hstage (.cons (.read hc nofun nofun) .nil))

/-- Settles O33: the value write stores at the captured index, and the index read stages the byte that stands there. -/
theorem acpiReadsBackWrite : Obligations.AcpiReadsBackWrite := by
  intro s i v rest hc he hspi hp
  have hserves := (serves_acpiWrite hc hspi i v s.bus.result).append (serves_acpiRead hc rfl i none)
  exact ⟨_, hserves.runs_pending he hp, congrArg some (read_storeAcpi_self s.dev.acpiSpace i v), rfl, rfl⟩

/-! Recovery. -/

/-- The byte `0x05` leaves the SPI sub-protocol, and is no EC command outside it. -/
theorem performs_unfollow {s : State} (hc : s.cfg.WellFormed) (d : Device) : ∃ e,
    s.Performs (.write s.cfg.portEcCmd 0x05) d e none ∧ e.protocolState.isSpi = false ∧ e.enter .idle = d.enter .idle := by
  cases hspi : d.protocolState.isSpi with
  | true =>
    exact ⟨d.enter .idle, .command hc (decodeCommandWrite_of_isSpi hspi 0x05) fun _ _ => rfl, rfl, rfl⟩
  | false =>
    exact ⟨d, .command hc (decodeCommandWrite_of_not_isSpi hspi 0x05) fun _ _ => rfl, hspi, rfl⟩

/-- Settles O46: after `0x05` the state is no SPI state, in which `0xDE` enters `Idle`. -/
theorem recoveryReachesIdle : Obligations.RecoveryReachesIdle := by
  intro s rest hc he hp
  obtain ⟨e, hunfollow, hspi, hkept⟩ := performs_unfollow hc s.dev
  have hidle : s.Performs (.write s.cfg.portEcCmd 0xDE) e (e.enter .idle) none :=
    .command hc (decodeCommandWrite_of_not_isSpi hspi 0xDE) fun _ _ => rfl
  have hserves : s.Serves s.dev s.bus.result _ _ _ := .cons hunfollow (.cons hidle .nil)
  exact ⟨_, hserves.runs_pending he hp, hkept, rfl⟩

/-! The address phases. -/

/-- The device with the accumulator counting: bytes taken, and the slot the next one fills. -/
def Device.addressing (d : Device) (b : Vector Byte 4) (n : Fin 4) : Device :=
  { d with spiAddressBytes := b, spiAddressRemaining := n, spiAddressComplete := false }

/-- The device with an address complete, the first byte written least significant (decision D15). -/
def Device.addressed (d : Device) (a1 a2 a3 a4 : Byte) : Device :=
  { d with
    spiAddressBytes := #v[a4, a3, a2, a1]
    spiAddressRemaining := 0
    spiAddressComplete := true
    spiAddress := a4 ++ a3 ++ a2 ++ a1 }

theorem Device.addressing_takeAddressByte (d : Device) (b : Vector Byte 4) {n : Fin 4} (hn : n.val ≠ 0) (v : Byte) :
    (d.addressing b n).takeAddressByte v = d.addressing (b.set n.val v n.isLt) (n - 1) :=
  Device.takeAddressByte_above rfl hn v

theorem Device.addressing_takeAddressByte_last (d : Device) (z a1 a2 a3 a4 : Byte) :
    (d.addressing #v[z, a3, a2, a1] 0).takeAddressByte a4 = d.addressed a1 a2 a3 a4 :=
  Device.takeAddressByte_atZero rfl a4

/-- An address byte above slot 0 is taken alike in the two address phases (45_spi_flash.md R172, R173). -/
theorem performs_addressByte {s : State} (hc : s.cfg.WellFormed) {d : Device}
    (hp : d.protocolState = .spiSectorEraseAddress ∨ d.protocolState = .spiHsReadAddress) (b : Vector Byte 4) {n : Fin 4}
    (hn : n.val ≠ 0) (v : Byte) : s.Performs (.write s.cfg.portEcData v) (d.addressing b n)
      (d.addressing (b.set n.val v n.isLt) (n - 1)) none := by
  rw [← Device.addressing_takeAddressByte d b hn v]
  rcases hp with hp | hp
  · refine .data hc (i := .flAddrSe v) ?_ fun _ _ => if_pos (Nat.pos_of_ne_zero hn)
    exact congrArg (decodeDataWrite · v) hp
  · refine .data hc (i := .flAddrHs v) ?_ fun _ _ => rfl
    exact congrArg (decodeDataWrite · v) hp

/-- The first three bytes fill slots 3, 2 and 1. -/
theorem serves_threeAddressBytes {s : State} (hc : s.cfg.WellFormed) {d : Device}
    (hp : d.protocolState = .spiSectorEraseAddress ∨ d.protocolState = .spiHsReadAddress) (z a1 a2 a3 : Byte)
    (r : Option Byte) : s.Serves (d.addressing #v[z, z, z, z] 3) r
      [.write s.cfg.portEcData a1, .write s.cfg.portEcData a2, .write s.cfg.portEcData a3]
      (d.addressing #v[z, a3, a2, a1] 0) none :=
  .cons (performs_addressByte hc hp #v[z, z, z, z] (n := 3) (by decide) a1)
    (.cons (performs_addressByte hc hp #v[z, z, z, a1] (n := 2) (by decide) a2)
      (.cons (performs_addressByte hc hp #v[z, z, a2, a1] (n := 1) (by decide) a3) .nil))

/-- The write phase of a sector erase opens its address phase. -/
theorem performs_openErase {s : State} (hc : s.cfg.WellFormed) {d : Device} (hp : d.protocolState = .spiSectorErase) :
    s.Performs (.write s.cfg.portEcCmd 0x03) d
      ((d.enter .spiSectorEraseAddress).addressing #v[0x00, 0x00, 0x00, 0x00] 3) none :=
  .command hc (i := .spiWritePhase) (by rw [hp]; rfl) fun q r₀ =>
    exec_spiWritePhase (s := s.reached d q r₀) (writePhase_spiSectorErase hp)

/-- The write phase of a high-speed read opens its address phase. -/
theorem performs_openRead {s : State} (hc : s.cfg.WellFormed) {d : Device} (hp : d.protocolState = .spiHsRead) :
    s.Performs (.write s.cfg.portEcCmd 0x03) d
      ((d.enter .spiHsReadAddress).addressing #v[0x00, 0x00, 0x00, 0x00] 3) none :=
  .command hc (i := .spiWritePhase) (by rw [hp]; rfl) fun q r₀ =>
    exec_spiWritePhase (s := s.reached d q r₀) (writePhase_spiHsRead hp)

/-- The write phase of a sector erase and three address bytes. -/
theorem serves_eraseThreeBytes {s : State} (hc : s.cfg.WellFormed) {d : Device} (hp : d.protocolState = .spiSectorErase)
    (a1 a2 a3 : Byte) (r : Option Byte) : s.Serves d r
      [.write s.cfg.portEcCmd 0x03, .write s.cfg.portEcData a1, .write s.cfg.portEcData a2, .write s.cfg.portEcData a3]
      ((d.enter .spiSectorEraseAddress).addressing #v[0x00, a3, a2, a1] 0) none :=
  .cons (performs_openErase hc hp) (serves_threeAddressBytes hc (.inl rfl) 0x00 a1 a2 a3 none)

/-- The fourth address byte of a sector erase completes the address and ends the phase. -/
theorem performs_lastEraseByte {s : State} (hc : s.cfg.WellFormed) {d : Device}
    (hp : d.protocolState = .spiSectorEraseAddress) (z a1 a2 a3 a4 : Byte) :
    s.Performs (.write s.cfg.portEcData a4) (d.addressing #v[z, a3, a2, a1] 0)
      ((d.addressed a1 a2 a3 a4).enter .spiFollow) none := by
  rw [← Device.addressing_takeAddressByte_last d z]
  exact .data hc (i := .flAddrSe a4) (congrArg (decodeDataWrite · a4) hp) fun _ _ => rfl

/-- Settles O58: the phase opens with a fresh accumulator, three bytes are counted, and the fourth ends the phase. -/
theorem sectorEraseAddress : Obligations.SectorEraseAddress := by
  intro s a1 a2 a3 a4 rest hc he hstate hp
  have hthree := serves_eraseThreeBytes hc hstate a1 a2 a3 s.bus.result
  have hfour := hthree.append (.cons (performs_lastEraseByte hc rfl 0x00 a1 a2 a3 a4) .nil)
  exact ⟨⟨_, hthree.runs_pending (rest := (Transaction.write s.cfg.portEcData a4).access :: rest) he hp, rfl, rfl⟩,
    _, hfour.runs_pending he hp, rfl, rfl⟩

/-- The write phase of a high-speed read and four address bytes: the address is complete, the phase goes on. -/
theorem serves_readFourBytes {s : State} (hc : s.cfg.WellFormed) {d : Device} (hp : d.protocolState = .spiHsRead)
    (a1 a2 a3 a4 : Byte) (r : Option Byte) : s.Serves d r
      [.write s.cfg.portEcCmd 0x03, .write s.cfg.portEcData a1, .write s.cfg.portEcData a2, .write s.cfg.portEcData a3,
        .write s.cfg.portEcData a4] ((d.enter .spiHsReadAddress).addressed a1 a2 a3 a4) none := by
  have hthree := serves_threeAddressBytes hc (d := d.enter .spiHsReadAddress) (.inr rfl) 0x00 a1 a2 a3 none
  have hlast : s.Performs (.write s.cfg.portEcData a4) ((d.enter .spiHsReadAddress).addressing #v[0x00, a3, a2, a1] 0)
      ((d.enter .spiHsReadAddress).addressed a1 a2 a3 a4) none := by
    rw [← Device.addressing_takeAddressByte_last (d.enter .spiHsReadAddress) 0x00]
    exact .data hc (i := .flAddrHs a4) rfl fun _ _ => rfl
  exact .cons (performs_openRead hc hp) (hthree.append (.cons hlast .nil))

/-- With the address complete, the dummy byte, a read phase and a read return the filler (decision D27). -/
theorem serves_readFiller {s : State} (hc : s.cfg.WellFormed) {d : Device} (hp : d.protocolState = .spiHsReadAddress)
    (hcomplete : d.spiAddressComplete = true) (dummy : Byte) (r : Option Byte) : s.Serves d r
      [.write s.cfg.portEcData dummy, .write s.cfg.portEcCmd 0x04, .read s.cfg.portEcData]
      ((d.enter .spiHsReadData).stage filler).unstage (some filler) := by
  have hdummy : s.Performs (.write s.cfg.portEcData dummy) d (d.enter .spiHsReadData) none :=
    .data hc (i := .flAddrHs dummy) (congrArg (decodeDataWrite · dummy) hp) fun _ _ => if_pos hcomplete
  have hfill : s.Performs (.write s.cfg.portEcCmd 0x04) (d.enter .spiHsReadData)
      ((d.enter .spiHsReadData).stage filler) none := .command hc (i := .spiReadPhase) rfl fun _ _ => rfl
  exact .cons hdummy (.cons hfill (.cons (.read hc nofun nofun) .nil))

/-- Settles O59: the fourth byte completes the address, the dummy byte opens the data phase, and its read phase stages
the filler that the read takes. -/
theorem highSpeedReadSequence : Obligations.HighSpeedReadSequence := by
  intro s a1 a2 a3 a4 dummy rest hc he hstate hp
  have hfour := serves_readFourBytes hc hstate a1 a2 a3 a4 s.bus.result
  have hall := hfour.append (serves_readFiller hc rfl rfl dummy none)
  exact ⟨⟨_, hfour.runs_pending he hp, rfl, rfl⟩, _, hall.runs_pending he hp, rfl, rfl, rfl, rfl, rfl⟩

/-! The string readout. -/

/-- The device in a readout, before the character at a place. -/
def Device.ReadingOut (version : Bool) (n : Nat) (d : Device) : Prop :=
  d.protocolState = readoutState version ∧ obf d.commandRegister = false ∧ d.readoutCursor version = n

/-- The command that starts a readout enters its state with its cursor at 0. -/
theorem performs_startReadout {s : State} (hc : s.cfg.WellFormed) {d : Device} (hspi : d.protocolState.isSpi = false)
    (version : Bool) : s.Performs (.write s.cfg.portEcCmd (if version then 0x93 else 0x92)) d
      ((d.seek version 0).enter (readoutState version)) none := by
  cases version <;> exact .command hc (decodeCommandWrite_of_not_isSpi hspi _) fun _ _ => rfl

section
variable {s : State} {d : Device} {version : Bool} {n : Nat}

theorem Device.ReadingOut.performs_character (hd : d.ReadingOut version n) (hc : s.cfg.WellFormed)
    (h : n < (readoutString version s.cfg).chars.length) : s.Performs (.read s.cfg.portEcData) d
      (d.emptied.seek version (n + 1)) (some (readoutString version s.cfg).chars[n]) := by
  obtain ⟨hstate, hobf, rfl⟩ := hd
  exact .of_row (routePort_read_portEcData hc _) fun q r₀ =>
    exec_ecRdata_inside (s := s.reached d q r₀) hobf hstate h

theorem Device.ReadingOut.performs_terminator (hd : d.ReadingOut version (readoutString version s.cfg).chars.length)
    (hc : s.cfg.WellFormed) : s.Performs (.read s.cfg.portEcData) d (d.emptied.enter .idle) (some 0x24) := by
  obtain ⟨hstate, hobf, hcursor⟩ := hd
  exact .of_row (routePort_read_portEcData hc _) fun q r₀ =>
    exec_ecRdata_atEnd (s := s.reached d q r₀) hobf hstate hcursor

/-- After a character the readout stands before the next one. -/
theorem Device.ReadingOut.next (hd : d.ReadingOut version n) :
    (d.emptied.seek version (n + 1)).ReadingOut version (n + 1) := by
  obtain ⟨hstate, hobf, -⟩ := hd
  cases version <;> exact ⟨hstate, hobf, rfl⟩

/-- The read at any place of a readout: a character, or at the end the terminator and `Idle`. -/
theorem Device.ReadingOut.performs_read (hd : d.ReadingOut version n) (hc : s.cfg.WellFormed)
    (h : n ≤ (readoutString version s.cfg).chars.length) : ∃ e,
    s.Performs (.read s.cfg.portEcData) d e ((readoutString version s.cfg).chars ++ [0x24])[n]? ∧
    e.protocolState = if n = (readoutString version s.cfg).chars.length then .idle else readoutState version := by
  rcases Nat.lt_or_eq_of_le h with hlt | rfl
  · refine ⟨d.emptied.seek version (n + 1), ?_, ?_⟩
    · rw [List.getElem?_append_left hlt, List.getElem?_eq_getElem hlt]
      exact hd.performs_character hc hlt
    · obtain ⟨hstate, -, -⟩ := hd.next
      rw [if_neg (by omega), hstate]
  · refine ⟨d.emptied.enter .idle, ?_, by simp⟩
    rw [List.getElem?_concat_length]
    exact hd.performs_terminator hc

end

/-- The command and as many reads as a place in the string lead there. -/
theorem serves_readout {s : State} (hc : s.cfg.WellFormed) (hspi : s.dev.protocolState.isSpi = false)
    (hobf : obf s.dev.commandRegister = false) (version : Bool) {n : Nat}
    (h : n ≤ (readoutString version s.cfg).chars.length) : ∃ d r, d.ReadingOut version n ∧
    s.Serves s.dev s.bus.result (.write s.cfg.portEcCmd (if version then 0x93 else 0x92) ::
      List.replicate n (.read s.cfg.portEcData)) d r := by
  induction n with
  | zero =>
    refine ⟨_, none, ?_, .cons (performs_startReadout hc hspi version) .nil⟩
    cases version <;> exact ⟨rfl, hobf, rfl⟩
  | succ n ih =>
    obtain ⟨d, r, hd, hserves⟩ := ih (by omega)
    have hcharacter := hserves.append (.cons (hd.performs_character hc h) .nil)
    rw [List.cons_append, ← List.replicate_succ'] at hcharacter
    exact ⟨_, _, hd.next, hcharacter⟩

/-- Settles O37: the reads before lead to the place of the character, and its read returns it or ends the readout. -/
theorem stringReadout : Obligations.StringReadout := by
  intro version s chars hc he hspi hobf hp k hk
  obtain ⟨d, r, hd, hbefore⟩ := serves_readout hc hspi hobf version hk
  obtain ⟨e, hread, hstate⟩ := hd.performs_read hc hk
  have hserves := hbefore.append (.cons hread .nil)
  rw [List.cons_append, ← List.replicate_succ'] at hserves
  have hqueue : List.replicate (chars.length + 1) (Transaction.read s.cfg.portEcData).access =
      List.replicate (k + 1) (Transaction.read s.cfg.portEcData).access ++
        List.replicate (chars.length - k) (Transaction.read s.cfg.portEcData).access := by
    rw [List.replicate_append_replicate]
    congr 1
    omega
  have hrun := hserves.runs_pending he
    (rest := List.replicate (chars.length - k) (Transaction.read s.cfg.portEcData).access) (by simp [hp, hqueue])
  rw [List.length_cons, List.length_replicate] at hrun
  exact ⟨_, hrun, rfl, hstate⟩

/-! The ID readout. -/

/-- The device in the ID readout, before the byte at a place: after a read nothing is staged. -/
def Device.ReadingId (n : Nat) (d : Device) : Prop :=
  d.protocolState = .spiReadJedec ∧ d.spiJedecCursor = n ∧ (n ≠ 0 → d.dataRegister = 0x00)

/-- The read phase of the ID readout stages the next byte, if any remains. -/
theorem performs_stageId {s : State} (hc : s.cfg.WellFormed) {d : Device} (hp : d.protocolState = .spiReadJedec) :
    s.Performs (.write s.cfg.portEcCmd 0x04) d (d.stageJedec s.cfg) none :=
  .command hc (i := .spiReadPhase) (by rw [hp]; rfl) fun q r₀ =>
    exec_spiReadPhase (s := s.reached d q r₀) (readPhase_spiReadJedec hp)

/-- A pair of read phase and data-port read returns what the read phase left in the data register. -/
theorem serves_idPair {s : State} (hc : s.cfg.WellFormed) {d : Device} (hp : d.protocolState = .spiReadJedec)
    (r : Option Byte) : s.Serves d r [.write s.cfg.portEcCmd 0x04, .read s.cfg.portEcData]
      (d.stageJedec s.cfg).unstage (some (d.stageJedec s.cfg).dataRegister) := by
  have hstate : (d.stageJedec s.cfg).protocolState = .spiReadJedec := (d.stageJedec_protocolState s.cfg).trans hp
  exact .cons (performs_stageId hc hp) (.cons (.read hc (hstate ▸ nofun) (hstate ▸ nofun)) .nil)

/-- While an ID byte remains a pair returns it. -/
theorem Device.ReadingId.serves_byte {s : State} {d : Device} {n : Nat} (hd : d.ReadingId n) (hc : s.cfg.WellFormed)
    (h : n < 4) (r : Option Byte) : ∃ e, e.ReadingId (n + 1) ∧
    s.Serves d r [.write s.cfg.portEcCmd 0x04, .read s.cfg.portEcData] e (some s.cfg.jedecId[n]) := by
  obtain ⟨hp, rfl, -⟩ := hd
  have hpair := serves_idPair hc hp r
  rw [Device.stageJedec_below h] at hpair
  refine ⟨_, ?_, hpair⟩
  exact ⟨hp, rfl, fun _ => rfl⟩

/-- With no ID byte left a pair returns `0x00` and leaves the cursor. -/
theorem Device.ReadingId.serves_exhausted {s : State} {d : Device} (hd : d.ReadingId 4) (hc : s.cfg.WellFormed)
    (r : Option Byte) :
    s.Serves d r [.write s.cfg.portEcCmd 0x04, .read s.cfg.portEcData] d.unstage (some 0x00) := by
  obtain ⟨hp, hcursor, hempty⟩ := hd
  have hpair := serves_idPair hc hp r
  rwa [Device.stageJedec_exhausted hcursor.ge, hempty (by decide)] at hpair

/-- The transactions of an ID readout: the opcode and some pairs. -/
def idReadout (c : Config) (n : Nat) : List Transaction :=
  .write c.portEcData 0x9F :: (List.replicate n [.write c.portEcCmd 0x04, .read c.portEcData]).flatten

theorem idReadout_succ (c : Config) (n : Nat) :
    idReadout c (n + 1) = idReadout c n ++ [.write c.portEcCmd 0x04, .read c.portEcData] := by
  simp [idReadout, List.replicate_succ']

theorem idReadout_length (c : Config) (n : Nat) : (idReadout c n).length = 2 * n + 1 := by
  simp [idReadout, Nat.mul_comm]

/-- A shorter readout begins a longer one. -/
theorem idReadout_begins (c : Config) {m n : Nat} (h : n ≤ m) : ∃ rest,
    (Transaction.write c.portEcData 0x9F).access :: (List.replicate m
      [(Transaction.write c.portEcCmd 0x04).access, (Transaction.read c.portEcData).access]).flatten =
    (idReadout c n).map Transaction.access ++ rest := by
  obtain ⟨k, rfl⟩ := Nat.exists_eq_add_of_le h
  rw [← List.replicate_append_replicate, List.flatten_append]
  simp only [idReadout, List.map_cons, List.map_flatten, List.map_replicate, List.map_nil, List.cons_append]
  exact ⟨_, rfl⟩

/-- The opcode and as many pairs as a place in the ID lead there. -/
theorem serves_idReadout {s : State} (hc : s.cfg.WellFormed) (hp : s.dev.protocolState = .spiCommand) {n : Nat}
    (h : n ≤ 4) : ∃ d r, d.ReadingId n ∧ s.Serves s.dev s.bus.result (idReadout s.cfg n) d r := by
  induction n with
  | zero =>
    have hopcode : s.Performs (.write s.cfg.portEcData 0x9F) s.dev
        (Device.enter { s.dev with spiJedecCursor := 0 } .spiReadJedec) none :=
      .data hc (i := .flRdid) (by rw [hp]; rfl) fun _ _ => rfl
    exact ⟨_, none, ⟨rfl, rfl, fun h => absurd rfl h⟩, .cons hopcode .nil⟩
  | succ n ih =>
    obtain ⟨d, r, hd, hserves⟩ := ih (by omega)
    obtain ⟨e, he, hpair⟩ := hd.serves_byte hc h r
    exact ⟨e, _, he, idReadout_succ s.cfg n ▸ hserves.append hpair⟩

/-- Settles O50: the pairs before lead to the place of the byte, which the next pair returns; the fifth finds none. -/
theorem jedecReadout : Obligations.JedecReadout := by
  intro s hc he hstate hp
  have hqueue (n : Nat) (h : n ≤ 5) : ∃ rest, s.bus.pending = (idReadout s.cfg n).map Transaction.access ++ rest := by
    rw [hp]
    exact idReadout_begins s.cfg h
  refine ⟨fun k h => ?_, ?_⟩
  · obtain ⟨d, r, hd, hbefore⟩ := serves_idReadout hc hstate h.le
    obtain ⟨e, -, hpair⟩ := hd.serves_byte hc h r
    obtain ⟨rest, hrest⟩ := hqueue (k + 1) (by omega)
    have hrun := (idReadout_succ s.cfg k ▸ hbefore.append hpair).runs_pending he hrest
    rw [idReadout_length] at hrun
    exact ⟨_, hrun, rfl⟩
  · obtain ⟨d, r, hd, hbefore⟩ := serves_idReadout hc hstate le_rfl
    obtain ⟨rest, hrest⟩ := hqueue 5 le_rfl
    have hrun := (idReadout_succ s.cfg 4 ▸ hbefore.append (hd.serves_exhausted hc r)).runs_pending he hrest
    obtain ⟨hp, hcursor, -⟩ := hd
    exact ⟨_, hrun, rfl, hcursor, hp⟩

end Sys2Proof.Machine
end
